-- ==== Sys2Proof/Word.lean ====
section
/-! DEFINITION. The widths of APD-CORE's values (00_scope.md R5, R6): bytes, command words, 32-bit words. -/

namespace Sys2Proof

/-- A byte of the window, an `imm8`, the pole count or the status byte (u8). -/
abbrev Byte := BitVec 8

/-- A command word `cmd[15:0]`, or a 16-bit frame field (R5, R60). -/
abbrev Word := BitVec 16

/-- A response data word, a binary32 pattern, an rpm or a millisecond count (R5). -/
abbrev DWord := BitVec 32

end Sys2Proof
end

