-- ==== Sys2Proof/Syntax.lean ====
section
/-! DEFINITION. The commands of the command port (30_encoding.md R62): one constructor for each row of the opcode
table, in the table's order, with the operand that R61 gives it. -/

namespace Sys2Proof

/-- A decoded command. `imm8` operands are bytes: a pole count, a received byte, a window index (R61). -/
inductive Instr where
  | config (poleCount : Byte)   -- CONFIG, 0x01
  | rdConfig                    -- RD_CONFIG, 0x02
  | push (b : Byte)             -- PUSH, 0x03
  | clear                       -- CLEAR, 0x04
  | rdVolts                     -- RD_VOLTS, 0x10
  | rdTempC                     -- RD_TEMPC, 0x11
  | rdAmps                      -- RD_AMPS, 0x12
  | rdRpm                       -- RD_RPM, 0x13
  | rdThrottle                  -- RD_THROTTLE, 0x14
  | rdPhaseAmps                 -- RD_PHASE_AMPS, 0x15
  | rdStatus                    -- RD_STATUS, 0x16
  | rdUpdateTs                  -- RD_UPDATE_TS, 0x17
  | rdValid                     -- RD_VALID, 0x18
  | isStarted                   -- IS_STARTED, 0x20
  | isSaturated                 -- IS_SATURATED, 0x21
  | isOvertemp                  -- IS_OVERTEMP, 0x22
  | isOvervolt                  -- IS_OVERVOLT, 0x23
  | isUndervolt                 -- IS_UNDERVOLT, 0x24
  | startErr                    -- START_ERR, 0x25
  | bufRead (i : Byte)          -- BUF_READ, 0x30
  | bufCount                    -- BUF_COUNT, 0x31
  deriving DecidableEq, Repr

/-- The two command formats (R60): N has a zero low byte, I carries `imm8`. -/
inductive Format where
  | n
  | i
  deriving DecidableEq, Repr

/-- Why a word selects no command (R65). Both answer ERR_ILLEGAL. -/
inductive DecodeError where
  /-- The opcode is not in the table of R62. -/
  | unassignedOpcode
  /-- A Format N word whose low byte is not zero. -/
  | reservedOperand
  deriving DecidableEq, Repr

end Sys2Proof
end

