-- ==== Sys2Proof/WellFormed.lean ====
section
/-! DEFINITION. What is well formed. An operand of `Instr` is a byte, so every term of `Instr` is a command the port can
carry: the type is the check. The check that remains is on words: the mask and match table of 30_encoding.md R63, kept
apart from the decoder of R65 so that the two can be held against each other. -/

namespace Sys2Proof

/-- One row of R63's table: `w` selects it when `w &&& mask = pattern`. -/
structure PatternRow where
  pattern : Word
  mask    : Word
  deriving DecidableEq, Repr

/-- The 21 rows of R63, in its order. -/
def patternTable : List PatternRow :=
  [⟨0x0100#16, 0xFF00#16⟩, ⟨0x0200#16, 0xFFFF#16⟩, ⟨0x0300#16, 0xFF00#16⟩, ⟨0x0400#16, 0xFFFF#16⟩,
   ⟨0x1000#16, 0xFFFF#16⟩, ⟨0x1100#16, 0xFFFF#16⟩, ⟨0x1200#16, 0xFFFF#16⟩, ⟨0x1300#16, 0xFFFF#16⟩,
   ⟨0x1400#16, 0xFFFF#16⟩, ⟨0x1500#16, 0xFFFF#16⟩, ⟨0x1600#16, 0xFFFF#16⟩, ⟨0x1700#16, 0xFFFF#16⟩,
   ⟨0x1800#16, 0xFFFF#16⟩, ⟨0x2000#16, 0xFFFF#16⟩, ⟨0x2100#16, 0xFFFF#16⟩, ⟨0x2200#16, 0xFFFF#16⟩,
   ⟨0x2300#16, 0xFFFF#16⟩, ⟨0x2400#16, 0xFFFF#16⟩, ⟨0x2500#16, 0xFFFF#16⟩, ⟨0x3000#16, 0xFF00#16⟩,
   ⟨0x3100#16, 0xFFFF#16⟩]

/-- A word selects a row of R63's table. -/
def PatternRow.selects (r : PatternRow) (w : Word) : Bool := w &&& r.mask == r.pattern

/-- A legal command word: it selects some row of R63. -/
def legalWord (w : Word) : Bool := patternTable.any (fun r => r.selects w)

/-- The row of R63 that stands for an instruction's mnemonic. -/
def rowOf : Instr → PatternRow
  | .config _    => ⟨0x0100#16, 0xFF00#16⟩
  | .rdConfig    => ⟨0x0200#16, 0xFFFF#16⟩
  | .push _      => ⟨0x0300#16, 0xFF00#16⟩
  | .clear       => ⟨0x0400#16, 0xFFFF#16⟩
  | .rdVolts     => ⟨0x1000#16, 0xFFFF#16⟩
  | .rdTempC     => ⟨0x1100#16, 0xFFFF#16⟩
  | .rdAmps      => ⟨0x1200#16, 0xFFFF#16⟩
  | .rdRpm       => ⟨0x1300#16, 0xFFFF#16⟩
  | .rdThrottle  => ⟨0x1400#16, 0xFFFF#16⟩
  | .rdPhaseAmps => ⟨0x1500#16, 0xFFFF#16⟩
  | .rdStatus    => ⟨0x1600#16, 0xFFFF#16⟩
  | .rdUpdateTs  => ⟨0x1700#16, 0xFFFF#16⟩
  | .rdValid     => ⟨0x1800#16, 0xFFFF#16⟩
  | .isStarted   => ⟨0x2000#16, 0xFFFF#16⟩
  | .isSaturated => ⟨0x2100#16, 0xFFFF#16⟩
  | .isOvertemp  => ⟨0x2200#16, 0xFFFF#16⟩
  | .isOvervolt  => ⟨0x2300#16, 0xFFFF#16⟩
  | .isUndervolt => ⟨0x2400#16, 0xFFFF#16⟩
  | .startErr    => ⟨0x2500#16, 0xFFFF#16⟩
  | .bufRead _   => ⟨0x3000#16, 0xFF00#16⟩
  | .bufCount    => ⟨0x3100#16, 0xFFFF#16⟩

end Sys2Proof
end

