-- ==== Sys2Proof/Decode.lean ====
section
/-! DEFINITION. The decoder of 30_encoding.md R65, total over all 65536 words and rejecting by name, and after it the
encoder of R60 to R62. -/

namespace Sys2Proof

/-- `opcode = cmd[15:8]` (R60). -/
def opcodeOf (w : Word) : Byte := w.extractLsb' 8 8

/-- `imm8 = cmd[7:0]` (R60, R61). -/
def immOf (w : Word) : Byte := w.extractLsb' 0 8

/-- The opcode map of R62: opcode, format, and the command with `imm` as its operand. -/
def opcodeMap (imm : Byte) : List (Byte × Format × Instr) :=
  [(0x01#8, .i, .config imm), (0x02#8, .n, .rdConfig), (0x03#8, .i, .push imm), (0x04#8, .n, .clear),
   (0x10#8, .n, .rdVolts), (0x11#8, .n, .rdTempC), (0x12#8, .n, .rdAmps), (0x13#8, .n, .rdRpm),
   (0x14#8, .n, .rdThrottle), (0x15#8, .n, .rdPhaseAmps), (0x16#8, .n, .rdStatus),
   (0x17#8, .n, .rdUpdateTs), (0x18#8, .n, .rdValid), (0x20#8, .n, .isStarted),
   (0x21#8, .n, .isSaturated), (0x22#8, .n, .isOvertemp), (0x23#8, .n, .isOvervolt),
   (0x24#8, .n, .isUndervolt), (0x25#8, .n, .startErr), (0x30#8, .i, .bufRead imm),
   (0x31#8, .n, .bufCount)]

/-- The format and the command an opcode selects, if it is assigned (R62). -/
def commandOf (op imm : Byte) : Option (Format × Instr) :=
  ((opcodeMap imm).find? (fun row => row.1 == op)).map Prod.snd

/-- The decoder of R65: an unassigned opcode is refused first, then a Format N word with a nonzero low byte. -/
def decode (w : Word) : Except DecodeError Instr :=
  match commandOf (opcodeOf w) (immOf w) with
  | none => .error .unassignedOpcode
  | some (.i, cmd) => .ok cmd
  | some (.n, cmd) => if immOf w = 0#8 then .ok cmd else .error .reservedOperand

/-- The opcode R62 gives each command. -/
def opcodeByte : Instr → Byte
  | .config _    => 0x01#8
  | .rdConfig    => 0x02#8
  | .push _      => 0x03#8
  | .clear       => 0x04#8
  | .rdVolts     => 0x10#8
  | .rdTempC     => 0x11#8
  | .rdAmps      => 0x12#8
  | .rdRpm       => 0x13#8
  | .rdThrottle  => 0x14#8
  | .rdPhaseAmps => 0x15#8
  | .rdStatus    => 0x16#8
  | .rdUpdateTs  => 0x17#8
  | .rdValid     => 0x18#8
  | .isStarted   => 0x20#8
  | .isSaturated => 0x21#8
  | .isOvertemp  => 0x22#8
  | .isOvervolt  => 0x23#8
  | .isUndervolt => 0x24#8
  | .startErr    => 0x25#8
  | .bufRead _   => 0x30#8
  | .bufCount    => 0x31#8

/-- The low byte of each command's word: its operand in Format I, zero in Format N (R60). -/
def immByte : Instr → Byte
  | .config p  => p
  | .push b    => b
  | .bufRead i => i
  | .rdConfig | .clear | .rdVolts | .rdTempC | .rdAmps | .rdRpm | .rdThrottle | .rdPhaseAmps | .rdStatus
  | .rdUpdateTs | .rdValid | .isStarted | .isSaturated | .isOvertemp | .isOvervolt | .isUndervolt | .startErr
  | .bufCount => 0#8

/-- The word of a command, opcode in the high byte: `(opcode << 8) | imm` (R60, R68). -/
def encode (i : Instr) : Word := opcodeByte i ++ immByte i

/-- The instruction the decoder reads from a row's bits. Every command is one 16-bit word given whole on the port
(R67, 20_memory.md R53; DEDUCED, log 15), so there is no byte order: the word is the number, bits at and above `nbits` zero. -/
def decodeTableWord (nbits w : Nat) : Option Instr :=
  match decode (BitVec.ofNat 16 (w % 2 ^ nbits)) with
  | .ok i => some i
  | .error _ => none

end Sys2Proof
end

