-- ==== Sys2Proof/Config.lean ====
section
/-! DEFINITION. The constants the spec fixes (00_scope.md R3) and the values it leaves open (R4), the latter as
uninterpreted constants with no body. -/

namespace Sys2Proof

/-- N: the frame length and the window's capacity (R3). -/
@[simp] def Config.frameLen : Nat := 22

/-- DATA_LEN: the bytes the checksum covers, offsets 0 to 17 (R3). -/
@[simp] def Config.dataLen : Nat := 18

/-- CKS_OFF: the offset of the little-endian checksum field (R3). -/
@[simp] def Config.cksOff : Nat := 18

/-- STOP_OFF: the offset of the two stop bytes (R3). -/
@[simp] def Config.stopOff : Nat := 20

/-- STOP_BYTE: each of the two stop bytes (R3). -/
@[simp] def Config.stopByte : Byte := 0xFF#8

/-- FLETCHER_MOD (R3). -/
@[simp] def Config.fletcherMod : Nat := 255

/-- VOLT_DIV (R3). -/
@[simp] def Config.voltDiv : Nat := 100

/-- BITS_PER_AMP = 12.5, written as the fraction 25/2 so that `raw / 12.5 = 2 * raw / 25` (R3, R138). -/
@[simp] def Config.bitsPerAmpNum : Nat := 25

/-- The denominator of BITS_PER_AMP = 25/2 (R3, R138). -/
@[simp] def Config.bitsPerAmpDen : Nat := 2

/-- DUTY_DIV (R3). -/
@[simp] def Config.dutyDiv : Nat := 10000

/-- ADC_FS: the full-scale constant of the temperature formula (R3). -/
@[simp] def Config.adcFs : Nat := 4096

/-- T_MAX as a binary32 pattern: 200.0 (R3, R136). T_MIN is the pattern 0. -/
@[simp] def Config.tMaxPattern : Nat := 0x43480000

/-- FREE VALUE (DESIGN CHOICE, log 6). The entry of TEMP_LUT for a code from 1 to 4095. Its type is all that 42_field_decoder.md R137
property 2 allows: the patterns from +0.0 to 200.0 are exactly those from 0 to 0x43480000. -/
opaque Config.tempEntry : Word → Fin (0x43480000 + 1)

/-- FREE VALUE (DESIGN CHOICE, log 5). The "undefined rpm division" by a pole count of 0 (44_configuration.md R191), a function of the
eRPM. No run reaches it: CONFIG refuses 0. -/
opaque Config.rpmByZero : DWord → DWord

/-- FREE VALUE (DESIGN CHOICE, log 7). What `win[i]` would be for an index at or past `len(WIN)`, where the spec defines no byte
(00_scope.md R9, 20_memory.md R40). No command reads it. -/
opaque Config.absentByte : Nat → Byte

end Sys2Proof
end

