-- ==== Sys2Proof/Machine/State.lean ====
section
/-! DEFINITION. The architectural state of one APD-CORE instance (10_state.md R22), its response channel
(60_exceptions.md R230), the host's side of the ports as plain data, and the state after reset
(70_reset_and_hazards.md R240). -/

namespace Sys2Proof.Machine

/-- The configuration register CFG (R23). Its bits 31:9 read as zero and are not stored. -/
structure Cfg where
  configured : Bool
  poleCount  : Byte
  deriving DecidableEq, Repr

/-- The telemetry cache TEL (R25): binary32 patterns, u32 and u8 registers, and the valid bit. -/
structure Tel where
  valid     : Bool
  volts     : DWord
  tempC     : DWord
  amps      : DWord
  rpm       : DWord
  throttle  : DWord
  phaseAmps : DWord
  status    : Byte
  updateTs  : DWord
  deriving DecidableEq, Repr

/-- The `rsp_status` names of 30_encoding.md R64. Codes 5, 6 and 7 are never produced and have no name. -/
inductive RspStatus where
  | ok
  | errIllegal
  | errUnconfigured
  | errBadConfig
  | errRange
  deriving DecidableEq, Repr

/-- One response: `rsp_status` and `rsp_data` (R64). -/
structure Response where
  status : RspStatus
  data   : DWord
  deriving DecidableEq, Repr

/-- The levels the host puts on the block's input ports for one step (60_exceptions.md R230). -/
structure PortIn where
  rst      : Bool
  cmdValid : Bool
  cmd      : Word
  nowMs    : DWord
  rspReady : Bool
  deriving DecidableEq, Repr

/-- A host that does nothing: every line 0 (DESIGN CHOICE, log 3). -/
def PortIn.quiet : PortIn := ⟨false, false, 0#16, 0#32, false⟩

/-- The state of the machine. `cfg`, `win` and `tel` are the record S of R22. `rsp` is the response channel, `none` when
`rsp_valid` is 0 (DEDUCED, log 11). `port` and `inbox` are the model's own: the host's lines for the step about to happen, and for
the steps after it (DESIGN CHOICE, log 2). -/
structure State where
  cfg   : Cfg
  /-- WIN: the window's bytes, oldest first (R24). -/
  win   : List Byte
  tel   : Tel
  rsp   : Option Response
  port  : PortIn
  inbox : List PortIn
  deriving DecidableEq, Repr

/-- The canonical form of the window, the only memory (R24, R30 item 1): a list of at most 22 bytes. A list of bytes by
position has one form for each content. -/
abbrev Memory.wf (w : List Byte) : Prop := w.length ≤ Config.frameLen

/-- Every reason a step may stop the machine with a fault. The spec gives none: no command can hang or trap
(60_exceptions.md R212, R216; 93_implementation_defined.md part 1), and errors are responses. Nothing raises one, so the
type has no constructor, which is safe: it lets no behaviour of the hardware out. -/
inductive Fault
  deriving DecidableEq, Repr

/-- Every reason an instruction may be refused. -/
inductive Refusal where
  /-- Raised only by an arm of `exec` for an instruction that has no meaning yet, under its mnemonic. No arm raises it
  now. Safe: the machine stops where the hardware goes on. -/
  | notModelled (mnemonic : String)
  deriving DecidableEq, Repr

/-- CFG after reset: unconfigured, pole count 0 (R23, R240). -/
def Cfg.reset : Cfg := ⟨false, 0#8⟩

/-- TEL after reset and after a successful CONFIG: all zero patterns, not valid (R25, R240). -/
def Tel.reset : Tel := ⟨false, 0#32, 0#32, 0#32, 0#32, 0#32, 0#32, 0#8, 0#32⟩

/-- The machine right after reset (R240), with a host that offers nothing (DESIGN CHOICE, log 3). -/
def State.reset : State := ⟨Cfg.reset, [], Tel.reset, none, PortIn.quiet, []⟩

/-- `cmd_ready`: the block can accept a command exactly when no response is outstanding (70_reset_and_hazards.md R251). -/
def State.cmdReady (s : State) : Bool := s.rsp.isNone

end Sys2Proof.Machine
end

