-- ==== Sys2Proof/Machine/Ops.lean ====
section
/-! DEFINITION. The named operations every meaning is built from: the window (40_window_detector.md R81 to R84,
20_memory.md R44), the response channel (30_encoding.md R64), raising an error (60_exceptions.md R211), and what the ports
do between commands (60_exceptions.md R230, 70_reset_and_hazards.md R240, R251).

Taking an exception on this machine is `raise`: nothing diverts control, saves state or changes a mode, and there is no
return from it (60_exceptions.md R216). -/

namespace Sys2Proof.Machine

/-! ### The window -/

/-- WinPush(b) (R81): append at the tail, evicting the oldest byte first when 22 are held. -/
def winPush (w : List Byte) (b : Byte) : List Byte :=
  if w.length = Config.frameLen then w.drop 1 ++ [b] else w ++ [b]

/-- WinClear() (R82). -/
def winClear : List Byte := []

/-- `full`: 22 bytes have been pushed since the last clear (R83). -/
def winFull (w : List Byte) : Bool := w.length == Config.frameLen

/-- `win[i]` (R84): the byte at logical position `i`. Past the bytes held the spec defines none (log 7). -/
def winByte (w : List Byte) (i : Nat) : Byte := w.getD i (Config.absentByte i)

/-- `MemRead(off, n)` (20_memory.md R44): the little-endian unsigned value of the `n` bytes from `off`. -/
def memRead (w : List Byte) (off : Nat) : Nat → Nat
  | 0 => 0
  | n + 1 => (winByte w off).toNat + 256 * memRead w (off + 1) n

/-! ### The response channel -/

/-- `rsp_status` on its 3 wires (R64). -/
def rspCode : RspStatus → BitVec 3
  | .ok => 0#3
  | .errIllegal => 1#3
  | .errUnconfigured => 2#3
  | .errBadConfig => 3#3
  | .errRange => 4#3

/-- `respond(d)`: end the command with status OK and data `d` (00_scope.md R9). -/
def respond (s : State) (d : DWord) : State := { s with rsp := some ⟨.ok, d⟩ }

/-- `raise <Error>()`: end the command with the error's status and data 0, and change no other state (R211). -/
def raise (s : State) (e : RspStatus) : State := { s with rsp := some ⟨e, 0#32⟩ }

/-- Run a command's effect on a configured instance; otherwise ERR_UNCONFIGURED (60_exceptions.md R213). -/
def requireConfigured (s : State) (effect : State) : Host.Outcome State Fault Refusal :=
  .next (if s.cfg.configured then effect else raise s .errUnconfigured)

/-! ### The ports -/

/-- The host's lines for the next step: the first of `inbox`, or a quiet host when it is empty (log 2). -/
def advancePort (s : State) : State :=
  match s.inbox with
  | [] => { s with port := PortIn.quiet }
  | p :: rest => { s with port := p, inbox := rest }

/-- A clock edge with `rst` 1 (70_reset_and_hazards.md R240): every element at its reset value, an untaken response
dropped. The host's lines are the host's and go on. -/
def resetEdge (s : State) : State :=
  advancePort { State.reset with port := s.port, inbox := s.inbox }

/-- A response is outstanding: it is held until `rsp_ready`, and no command is accepted meanwhile (R230, R251). -/
def responseCycle (s : State) : State :=
  advancePort (if s.port.rspReady then { s with rsp := none } else s)

/-- Apply `f` to the next state of an outcome. -/
def mapNext (f : State → State) : Host.Outcome State Fault Refusal → Host.Outcome State Fault Refusal
  | .next s => .next (f s)
  | .fault r => .fault r
  | .refused r => .refused r

/-- Put a command word on the port of a block that can accept it: no reset, `cmd_valid` 1, no response outstanding. The
millisecond input and everything else stay. -/
def offerWord (s : State) (w : Word) : State :=
  { s with port := { s.port with rst := false, cmdValid := true, cmd := w }, rsp := none }

end Sys2Proof.Machine
end

