-- ==== Sys2Proof/Machine/Operands.lean ====
section
/-! DEFINITION. Operand forms: the zero-extended `imm8` (30_encoding.md R61), the sampled `now_ms`
(60_exceptions.md R222), the fields a decode reads from a full window (20_memory.md R45), and the packed words that
RD_CONFIG and BUF_COUNT answer with (30_encoding.md R66). -/

namespace Sys2Proof.Machine

/-- `zext_32` of a byte (00_scope.md R7). -/
def zextByte (b : Byte) : DWord := b.zeroExtend 32

/-- `zext_32` of one bit. -/
def zextBit (b : Bool) : DWord := if b then 1#32 else 0#32

/-- `imm8` as a window index: unsigned, neither scaled nor shifted (R61). -/
def immIndex (i : Byte) : Nat := i.toNat

/-- The `now_ms` sample of the command being accepted (R222; DEDUCED, log 4). -/
def sampledNow (s : State) : DWord := s.port.nowMs

/-- The raw fields of a frame (20_memory.md R45). Only the current is signed. -/
structure RawFields where
  voltage   : Nat
  tempADC   : Word
  amps      : Int
  eRPM      : DWord
  throttle  : Nat
  motorDuty : Nat
  status    : Byte
  deriving DecidableEq, Repr

/-- A 16-bit value read as two's complement (R45). -/
def signed16 (n : Nat) : Int := if 0x8000 ≤ n then (n : Int) - 65536 else n

/-- Field extraction from a full window (R42, R45). Bytes 6, 7 and 17 are read by no field (R55). -/
def rawFields (w : List Byte) : RawFields where
  voltage   := memRead w 0 2
  tempADC   := BitVec.ofNat 16 (memRead w 2 2)
  amps      := signed16 (memRead w 4 2)
  eRPM      := BitVec.ofNat 32 (memRead w 8 4)
  throttle  := memRead w 12 2
  motorDuty := memRead w 14 2
  status    := winByte w 16

/-- CFG as RD_CONFIG returns it: `configured` at bit 8, `pole_count` at 7:0, zeros above (10_state.md R23). -/
def cfgWord (c : Cfg) : DWord := zextByte c.poleCount ||| (zextBit c.configured <<< 8)

/-- BUF_COUNT's word: the length at 4:0, `full` at bit 8 (R66, R92). -/
def countWord (w : List Byte) : DWord :=
  (BitVec.ofNat 5 w.length).zeroExtend 32 ||| (zextBit (winFull w) <<< 8)

end Sys2Proof.Machine
end

