-- ==== Sys2Proof/Machine/Accessors.lean ====
section
/-! DEFINITION. The accessor commands (42_field_decoder.md R149 to R158): each answers with one TEL register and writes
nothing. -/

namespace Sys2Proof.Machine

/-- The accessor template (R149): answer with `value` if configured. -/
def answer (s : State) (value : DWord) : Host.Outcome State Fault Refusal :=
  requireConfigured s (respond s value)

/-- RD_VOLTS (R150). -/
def execRdVolts (s : State) : Host.Outcome State Fault Refusal := answer s s.tel.volts

/-- RD_TEMPC (R151). -/
def execRdTempC (s : State) : Host.Outcome State Fault Refusal := answer s s.tel.tempC

/-- RD_AMPS (R152). -/
def execRdAmps (s : State) : Host.Outcome State Fault Refusal := answer s s.tel.amps

/-- RD_RPM (R153). -/
def execRdRpm (s : State) : Host.Outcome State Fault Refusal := answer s s.tel.rpm

/-- RD_THROTTLE (R154). -/
def execRdThrottle (s : State) : Host.Outcome State Fault Refusal := answer s s.tel.throttle

/-- RD_PHASE_AMPS (R155). -/
def execRdPhaseAmps (s : State) : Host.Outcome State Fault Refusal := answer s s.tel.phaseAmps

/-- RD_STATUS (R156): all 8 bits. -/
def execRdStatus (s : State) : Host.Outcome State Fault Refusal := answer s (zextByte s.tel.status)

/-- RD_UPDATE_TS (R157). -/
def execRdUpdateTs (s : State) : Host.Outcome State Fault Refusal := answer s s.tel.updateTs

/-- RD_VALID (R158). -/
def execRdValid (s : State) : Host.Outcome State Fault Refusal := answer s (zextBit s.tel.valid)

end Sys2Proof.Machine
end

