-- ==== Sys2Proof/Machine/Configuration.lean ====
section
/-! DEFINITION. The configuration commands (44_configuration.md): CONFIG and RD_CONFIG, the two that an unconfigured
block answers. -/

namespace Sys2Proof.Machine

/-- A successful construction (R190): the pole count set, the window and the cache as new. -/
def construct (s : State) (p : Byte) : State :=
  { s with cfg := ⟨true, p⟩, win := winClear, tel := Tel.reset }

/-- CONFIG (R190, R191): pole count 0 is ERR_BADCONFIG and changes nothing. -/
def execConfig (p : Byte) (s : State) : Host.Outcome State Fault Refusal :=
  .next (if p = 0#8 then raise s .errBadConfig else respond (construct s p) 0#32)

/-- RD_CONFIG (R193). -/
def execRdConfig (s : State) : Host.Outcome State Fault Refusal :=
  .next (respond s (cfgWord s.cfg))

end Sys2Proof.Machine
end

