-- ==== Sys2Proof/Machine/Flags.lean ====
section
/-! DEFINITION. The only flags of the machine: the six status bits of the last decoded frame (10_state.md R28,
43_status_query.md R170, R171). -/

namespace Sys2Proof.Machine

/-- `flag_k(S) = S.TEL.status[k]` (R171). -/
def statusFlag (s : State) (k : Nat) : Bool := s.tel.status.getLsbD k

/-- The response of the flag command for bit `k` (R171): 1 if the bit is set, else 0. -/
def flagWord (s : State) (k : Nat) : DWord := zextBit (statusFlag s k)

end Sys2Proof.Machine
end

