-- ==== Sys2Proof/Machine/StatusQuery.lean ====
section
/-! DEFINITION. The six status flag commands (43_status_query.md R171 to R177): opcode 0x20 + k tests bit k. -/

namespace Sys2Proof.Machine

/-- IS_STARTED (R172): bit 0. -/
def execIsStarted (s : State) : Host.Outcome State Fault Refusal := answer s (flagWord s 0)

/-- IS_SATURATED (R173): bit 1. -/
def execIsSaturated (s : State) : Host.Outcome State Fault Refusal := answer s (flagWord s 1)

/-- IS_OVERTEMP (R174): bit 2. -/
def execIsOvertemp (s : State) : Host.Outcome State Fault Refusal := answer s (flagWord s 2)

/-- IS_OVERVOLT (R175): bit 3. -/
def execIsOvervolt (s : State) : Host.Outcome State Fault Refusal := answer s (flagWord s 3)

/-- IS_UNDERVOLT (R176): bit 4. -/
def execIsUndervolt (s : State) : Host.Outcome State Fault Refusal := answer s (flagWord s 4)

/-- START_ERR (R177): bit 5. -/
def execStartErr (s : State) : Host.Outcome State Fault Refusal := answer s (flagWord s 5)

end Sys2Proof.Machine
end

