-- ==== Sys2Proof/Machine/Checksum.lean ====
section
/-! DEFINITION. The Fletcher-16 validator (41_checksum.md R110, R111), internal to PUSH. -/

namespace Sys2Proof.Machine

/-- One byte of Fletcher-16 (R110): `c0` takes the byte, then `c1` takes the new `c0`, both modulo 255. -/
def fletcherStep (c : Nat × Nat) (b : Byte) : Nat × Nat :=
  let c0 := (c.1 + b.toNat) % Config.fletcherMod
  (c0, (c.2 + c0) % Config.fletcherMod)

/-- `fletcher16(data)` (R110): both accumulators start at 0, the bytes taken in increasing offset order. -/
def fletcher16 (data : List Byte) : Nat × Nat := data.foldl fletcherStep (0, 0)

/-- `checksum_ok(WIN)` (R111): `(c1 << 8) | c0` over the 18 data bytes is the little-endian field at offset 18. -/
def checksumOk (w : List Byte) : Bool :=
  let c := fletcher16 (w.take Config.dataLen)
  memRead w Config.cksOff 2 == (c.2 <<< 8 ||| c.1)

end Sys2Proof.Machine
end

