-- ==== Sys2Proof/Machine/Float32.lean ====
section
/-! DEFINITION. binary32 patterns and rounding (00_scope.md R8). A finite binary32 value is a whole number of units of
2^-149, the smallest subnormal, so values are kept as integers counting those units and every rounding is exact integer
arithmetic. The bit layout (sign 31, exponent 30:23, fraction 22:0) is IEEE 754's (PRESUMED, log 8). -/

namespace Sys2Proof.Machine

/-- Units of 2^-149 in one. -/
def unitScale : Nat := 2 ^ 149

/-- The magnitude of a finite pattern in units of 2^-149: subnormals count themselves, a normal of exponent field `e`
and fraction `f` is `(2^23 + f) * 2^(e-1)` units. -/
def magUnits (p : DWord) : Nat :=
  let e := (p.extractLsb' 23 8).toNat
  let f := (p.extractLsb' 0 23).toNat
  if e = 0 then f else (2 ^ 23 + f) * 2 ^ (e - 1)

/-- The value of a finite pattern in units of 2^-149, signed. -/
def units32 (p : DWord) : Int := if p.msb then - (magUnits p : Int) else magUnits p

/-- A finite pattern: neither infinite nor NaN. -/
def isFinite32 (p : DWord) : Bool := p.extractLsb' 23 8 != 0xFF#8

/-- `val32(p)`, the real value of a finite pattern (R8), a rational. -/
def val32 (p : DWord) : ℚ := (units32 p : ℚ) / (unitScale : ℚ)

/-- `n / d` rounded to the nearest integer, ties to the even one. -/
def roundHalfEven (n d : Nat) : Nat :=
  let q := n / d
  let r := n % d
  if 2 * r < d then q else if d < 2 * r then q + 1 else q + q % 2

/-- The pattern of `rn32(n / d)` for a non-negative quotient. `k` is the number of binades the value lies above the first
normal one (0 for subnormals too), so one ulp is `2^k` units; the significand is rounded once, and `k * 2^23 + m` is the
pattern, since a carry out of the significand is the next binade's first pattern. -/
def rnMag (n d : Nat) : Nat :=
  let k := Nat.log2 (n * unitScale / d) - 23
  k * 2 ^ 23 + roundHalfEven (n * unitScale) (d * 2 ^ k)

/-- `rn32(num / den)` (R8): the nearest binary32, ties to even. Zero gives +0.0. -/
def rn32 (num : Int) (den : Nat) : DWord :=
  if num < 0 then 0x80000000#32 ||| BitVec.ofNat 32 (rnMag num.natAbs den)
  else BitVec.ofNat 32 (rnMag num.natAbs den)

/-- `p` is the binary32 pattern nearest to the real `x`, ties to the even significand, and +0.0 for 0 (R8): what rounding
means, stated without an algorithm, for claims. -/
def IsRn32 (x : ℝ) (p : DWord) : Prop :=
  isFinite32 p = true
  ∧ (∀ q, isFinite32 q = true → |x - (val32 p : ℝ)| ≤ |x - (val32 q : ℝ)|)
  ∧ (∀ q, isFinite32 q = true → val32 q ≠ val32 p → |x - (val32 q : ℝ)| = |x - (val32 p : ℝ)| → p.getLsbD 0 = false)
  ∧ (0 ≤ x → p.msb = false)

end Sys2Proof.Machine
end

