-- ==== Sys2Proof/Machine/FieldDecoder.lean ====
section
/-! DEFINITION. The unit conversions and the commit of a successful decode (42_field_decoder.md R135 to R145). -/

namespace Sys2Proof.Machine

/-- Volts (R135): `rn32(raw / 100)`. -/
def voltsOf (raw : Nat) : DWord := rn32 raw Config.voltDiv

/-- TEMP_LUT (R137): 0 at code 0 and from 4096 up, and in between the block's own table, free within [+0.0, 200.0] (log 6). -/
def tempLut (code : Word) : DWord :=
  if code = 0#16 ∨ Config.adcFs ≤ code.toNat then 0#32 else BitVec.ofNat 32 (Config.tempEntry code).val

/-- Amps (R138): `rn32(raw / 12.5) = rn32(2 * raw / 25)`, signed. -/
def ampsOf (raw : Int) : DWord := rn32 (raw * Config.bitsPerAmpDen) Config.bitsPerAmpNum

/-- RPM (R140): unsigned truncating division by the configured pole count. The division by 0 that CONFIG prevents is a
free value (log 5). -/
def rpmOf (eRPM : DWord) (poleCount : Byte) : DWord :=
  if poleCount = 0#8 then Config.rpmByZero eRPM else eRPM / zextByte poleCount

/-- Throttle (R141): `rn32(raw / 10000)`, not clamped. -/
def throttleOf (raw : Nat) : DWord := rn32 raw Config.dutyDiv

/-- Phase current (R142): the rounded amps of the same decode, times 10000 over the duty, rounded once; +0.0 at duty 0. -/
def phaseAmpsOf (amps : DWord) (duty : Nat) : DWord :=
  if 0 < duty then rn32 (units32 amps * Config.dutyDiv) (unitScale * duty) else 0#32

/-- CommitDecode(WIN, p, t) (R145): the nine TEL registers of a successful decode, all new. -/
def commitDecode (w : List Byte) (poleCount : Byte) (t : DWord) : Tel :=
  let f := rawFields w
  let a := ampsOf f.amps
  { valid     := true
    volts     := voltsOf f.voltage
    tempC     := tempLut f.tempADC
    amps      := a
    rpm       := rpmOf f.eRPM poleCount
    throttle  := throttleOf f.throttle
    phaseAmps := phaseAmpsOf a f.motorDuty
    status    := f.status
    updateTs  := t }

end Sys2Proof.Machine
end

