-- ==== Sys2Proof/Machine/Window.lean ====
section
/-! DEFINITION. The ingest and window commands (40_window_detector.md): PUSH, CLEAR, BUF_READ and BUF_COUNT, and the
frame detector inside PUSH. -/

namespace Sys2Proof.Machine

/-- The trigger of a decode attempt (R85): a full window that ends in the two stop bytes. -/
def trigger (w : List Byte) : Bool :=
  winFull w && winByte w Config.stopOff == Config.stopByte && winByte w (Config.stopOff + 1) == Config.stopByte

/-- One PUSH of `b` with the sample `t` on a configured block (R86). The three result codes are 0, 1 and -1 (R88): only a
success commits and clears, and a failed checksum keeps the window (R89). -/
def pushByte (b : Byte) (t : DWord) (s : State) : State :=
  let w := winPush s.win b
  if trigger w then
    if checksumOk w then
      respond { s with win := winClear, tel := commitDecode w s.cfg.poleCount t } 1#32
    else respond { s with win := w } 0xFFFFFFFF#32
  else respond { s with win := w } 0#32

/-- PUSH (R86). -/
def execPush (b : Byte) (s : State) : Host.Outcome State Fault Refusal :=
  requireConfigured s (pushByte b (sampledNow s) s)

/-- CLEAR (R90): the window is emptied, the cache stays. -/
def execClear (s : State) : Host.Outcome State Fault Refusal :=
  requireConfigured s (respond { s with win := winClear } 0#32)

/-- BUF_READ (R91): ERR_RANGE at and past the bytes held. -/
def execBufRead (i : Byte) (s : State) : Host.Outcome State Fault Refusal :=
  requireConfigured s
    (if immIndex i < s.win.length then respond s (zextByte (winByte s.win (immIndex i))) else raise s .errRange)

/-- BUF_COUNT (R92). -/
def execBufCount (s : State) : Host.Outcome State Fault Refusal :=
  requireConfigured s (respond s (countWord s.win))

end Sys2Proof.Machine
end

