-- ==== Sys2Proof/Machine/Dispatch.lean ====
section
/-! DEFINITION. `exec`: one arm per command, each one call of its meaning. -/

namespace Sys2Proof.Machine

/-- The meaning of each command on the state in which it is accepted. -/
def exec (i : Instr) (s : State) : Host.Outcome State Fault Refusal :=
  match i with
  | .config p => Sys2Proof.Machine.execConfig p s
  | .rdConfig => Sys2Proof.Machine.execRdConfig s
  | .push b => Sys2Proof.Machine.execPush b s
  | .clear => Sys2Proof.Machine.execClear s
  | .rdVolts => Sys2Proof.Machine.execRdVolts s
  | .rdTempC => Sys2Proof.Machine.execRdTempC s
  | .rdAmps => Sys2Proof.Machine.execRdAmps s
  | .rdRpm => Sys2Proof.Machine.execRdRpm s
  | .rdThrottle => Sys2Proof.Machine.execRdThrottle s
  | .rdPhaseAmps => Sys2Proof.Machine.execRdPhaseAmps s
  | .rdStatus => Sys2Proof.Machine.execRdStatus s
  | .rdUpdateTs => Sys2Proof.Machine.execRdUpdateTs s
  | .rdValid => Sys2Proof.Machine.execRdValid s
  | .isStarted => Sys2Proof.Machine.execIsStarted s
  | .isSaturated => Sys2Proof.Machine.execIsSaturated s
  | .isOvertemp => Sys2Proof.Machine.execIsOvertemp s
  | .isOvervolt => Sys2Proof.Machine.execIsOvervolt s
  | .isUndervolt => Sys2Proof.Machine.execIsUndervolt s
  | .startErr => Sys2Proof.Machine.execStartErr s
  | .bufRead k => Sys2Proof.Machine.execBufRead k s
  | .bufCount => Sys2Proof.Machine.execBufCount s

end Sys2Proof.Machine
end

