-- ==== Sys2Proof/Machine/Port.lean ====
section
/-! DEFINITION. What one step does at the ports (60_exceptions.md R230, 70_reset_and_hazards.md R240, R251): reset, a
response held or taken, a command accepted, executed and answered, or nothing. Untimed (R250). -/

namespace Sys2Proof.Machine

/-- Execute the command word being accepted: its command, or ERR_ILLEGAL when it selects none (30_encoding.md R65). -/
def runWord (w : Word) (s : State) : Host.Outcome State Fault Refusal :=
  match decode w with
  | .ok i => exec i s
  | .error _ => .next (raise s .errIllegal)

/-- A block that can accept a command: the offered one is executed and answered in this one step (00_scope.md R10), or
none is offered and nothing happens. -/
def commandCycle (s : State) : Host.Outcome State Fault Refusal :=
  if s.port.cmdValid then mapNext advancePort (runWord s.port.cmd s) else .next (advancePort s)

/-- One event at the ports. Reset wins over everything (R240; DEDUCED, log 16). An outstanding response keeps the block from accepting a
command until it has been taken (R251). Each event moves on to the host's next lines (DESIGN CHOICE, log 1, log 2). -/
def portEvent (s : State) : Host.Outcome State Fault Refusal :=
  if s.port.rst then .next (resetEdge s)
  else if s.cmdReady then commandCycle s
  else .next (responseCycle s)

end Sys2Proof.Machine
end

