-- ==== Sys2Proof/Machine/Step.lean ====
section
/-! DEFINITION. One step of the machine, and a step made to run a given instruction. -/

namespace Sys2Proof.Machine

/-- One step: one event at the ports. -/
def step (s : State) : Host.Outcome State Fault Refusal := portEvent s

/-- `s` with the row's word offered on the command port of a ready block, so that the next step accepts and runs it. -/
def State.withFetchWord (s : State) (nbits w : Nat) : State := offerWord s (BitVec.ofNat 16 (w % 2 ^ nbits))

end Sys2Proof.Machine
end

