-- ==== Sys2Proof/Machine/Assembler.lean ====
section
/-! DEFINITION. The assembler of 30_encoding.md R68 and the pseudo-commands of R69, which turn a line of text into the
commands a host offers. No step reads any of this. What R68 leaves open about the text is a DESIGN CHOICE, log 10. -/

namespace Sys2Proof.Machine

/-- The assembly errors (R68). -/
inductive AsmError where
  | unknownMnemonic
  /-- An operand on a Format N mnemonic, or too many operands. -/
  | operandUnexpected
  | operandMissing
  /-- An operand outside the range R68 or R69 gives it. -/
  | operandRange
  /-- An operand that is no number. -/
  | badNumber
  /-- An `@t=` that is malformed or not on a line of pushes. -/
  | badAnnotation
  deriving DecidableEq, Repr

/-- A command the host offers, with the `now_ms` it presents. -/
structure HostCmd where
  word  : Word
  nowMs : DWord
  deriving DecidableEq, Repr

/-- The mnemonics of R62, with their formats and opcodes. -/
def mnemonicTable : List (List Char × Format × Byte) :=
  [("CONFIG".toList, .i, 0x01#8), ("RD_CONFIG".toList, .n, 0x02#8), ("PUSH".toList, .i, 0x03#8),
   ("CLEAR".toList, .n, 0x04#8), ("RD_VOLTS".toList, .n, 0x10#8), ("RD_TEMPC".toList, .n, 0x11#8),
   ("RD_AMPS".toList, .n, 0x12#8), ("RD_RPM".toList, .n, 0x13#8), ("RD_THROTTLE".toList, .n, 0x14#8),
   ("RD_PHASE_AMPS".toList, .n, 0x15#8), ("RD_STATUS".toList, .n, 0x16#8), ("RD_UPDATE_TS".toList, .n, 0x17#8),
   ("RD_VALID".toList, .n, 0x18#8), ("IS_STARTED".toList, .n, 0x20#8), ("IS_SATURATED".toList, .n, 0x21#8),
   ("IS_OVERTEMP".toList, .n, 0x22#8), ("IS_OVERVOLT".toList, .n, 0x23#8), ("IS_UNDERVOLT".toList, .n, 0x24#8),
   ("START_ERR".toList, .n, 0x25#8), ("BUF_READ".toList, .i, 0x30#8), ("BUF_COUNT".toList, .n, 0x31#8)]

/-- The format and opcode of a mnemonic. -/
def lookupMnemonic (m : List Char) : Except AsmError (Format × Byte) :=
  match mnemonicTable.find? (fun row => row.1 == m) with
  | some row => .ok row.2
  | none => .error .unknownMnemonic

/-- `(opcode << 8) | imm`, with imm 0 for Format N (R68). -/
def assembleCommand (m : List Char) (operand : Option Nat) : Except AsmError Word :=
  match lookupMnemonic m, operand with
  | .error e, _ => .error e
  | .ok (.n, op), none => .ok (op ++ 0#8)
  | .ok (.n, _), some _ => .error .operandUnexpected
  | .ok (.i, _), none => .error .operandMissing
  | .ok (.i, op), some v => if v < 256 then .ok (op ++ BitVec.ofNat 8 v) else .error .operandRange

/-! ### Text -/

/-- The line without its comment. -/
def stripComment (line : List Char) : List Char := line.takeWhile (fun c => c != ';')

/-- What separates tokens: blanks, and the commas of operand lists. -/
def isSeparator (c : Char) : Bool := c == ' ' || c == '\t' || c == ','

/-- Split a line at separators; `cur` is the token being read, reversed. -/
def tokensFrom (cur : List Char) : List Char → List (List Char)
  | [] => if cur = [] then [] else [cur.reverse]
  | c :: cs =>
    if isSeparator c then (if cur = [] then tokensFrom [] cs else cur.reverse :: tokensFrom [] cs)
    else tokensFrom (c :: cur) cs

/-- The value of a digit in a base up to 16. -/
def digitValue (base : Nat) (c : Char) : Option Nat :=
  let v :=
    if '0' ≤ c ∧ c ≤ '9' then c.toNat - '0'.toNat
    else if 'a' ≤ c ∧ c ≤ 'f' then c.toNat - 'a'.toNat + 10
    else if 'A' ≤ c ∧ c ≤ 'F' then c.toNat - 'A'.toNat + 10
    else 16
  if v < base then some v else none

/-- Digits in a base, most significant first, added to `acc`. -/
def digitsFrom (base acc : Nat) : List Char → Option Nat
  | [] => some acc
  | c :: cs =>
    match digitValue base c with
    | some v => digitsFrom base (acc * base + v) cs
    | none => none

/-- A decimal number, or a hexadecimal one after `0x` (R68). -/
def parseNat : List Char → Except AsmError Nat
  | [] => .error .badNumber
  | ['0', 'x'] => .error .badNumber
  | '0' :: 'x' :: ds => (digitsFrom 16 0 ds).elim (.error .badNumber) .ok
  | ds => (digitsFrom 10 0 ds).elim (.error .badNumber) .ok

/-- A number that may carry a minus sign: MKFRAME's current is signed (R69). Every operand is read so, and its range is
checked after: `-0` is 0 for any operand, and any other minus sign is out of range where no negative value is allowed
(DESIGN CHOICE, log 10). -/
def parseInt : List Char → Except AsmError Int
  | '-' :: ds => (parseNat ds).map (fun n => - (n : Int))
  | ds => (parseNat ds).map (fun n => (n : Int))

/-- Every operand of a list, or the first error. -/
def parseInts : List (List Char) → Except AsmError (List Int)
  | [] => .ok []
  | t :: ts =>
    match parseInt t, parseInts ts with
    | .error e, _ => .error e
    | _, .error e => .error e
    | .ok v, .ok vs => .ok (v :: vs)

/-- The `now_ms` of a line: `@t=<decimal>` as its last token, 0 when absent (R68), with the operands before it. -/
def splitAnnotation (args : List (List Char)) : Except AsmError (List (List Char) × Option DWord) :=
  match args.getLast? with
  | some ('@' :: 't' :: '=' :: d :: ds) =>
    match digitsFrom 10 0 (d :: ds) with
    | some v => if v < 2 ^ 32 then .ok (args.dropLast, some (BitVec.ofNat 32 v)) else .error .badAnnotation
    | none => .error .badAnnotation
  | some ('@' :: _) => .error .badAnnotation
  | _ => .ok (args, none)

/-! ### Pseudo-commands -/

/-- A 16-bit value as its two little-endian bytes (20_memory.md R43). -/
def bytesOf16 (v : Word) : List Byte := [v.extractLsb' 0 8, v.extractLsb' 8 8]

/-- A 32-bit value as its four little-endian bytes (20_memory.md R43). -/
def bytesOf32 (v : DWord) : List Byte :=
  [v.extractLsb' 0 8, v.extractLsb' 8 8, v.extractLsb' 16 8, v.extractLsb' 24 8]

/-- The 18 data bytes of a MKFRAME, reserved bytes 0 (R69, 20_memory.md R42). -/
def frameData (v t a : Word) (e : DWord) (thr md : Word) (st : Byte) : List Byte :=
  bytesOf16 v ++ bytesOf16 t ++ bytesOf16 a ++ [0#8, 0#8] ++ bytesOf32 e ++ bytesOf16 thr ++ bytesOf16 md ++ [st, 0#8]

/-- The bytes a valid frame carries after its data bytes: c0, c1, then the stop marker (R69, 20_memory.md R46). -/
def sealFrame (data : List Byte) : List Byte :=
  let c := fletcher16 data
  data ++ [BitVec.ofNat 8 c.1, BitVec.ofNat 8 c.2, 0xFF#8, 0xFF#8]

/-- The 22 bytes of MKFRAME (R69). -/
def mkFrame (v t a : Word) (e : DWord) (thr md : Word) (st : Byte) : List Byte :=
  sealFrame (frameData v t a e thr md st)

/-- PUSH of each byte, in order, with one `now_ms` (FEED, R69). -/
def feed (now : DWord) (bs : List Byte) : List HostCmd := bs.map (fun b => ⟨encode (.push b), now⟩)

/-- An integer as a value of `w` bits, if it lies from `lo` up to but not including `hi`. -/
def inRange (w : Nat) (lo hi v : Int) : Except AsmError (BitVec w) :=
  if lo ≤ v ∧ v < hi then .ok (BitVec.ofInt w v) else .error .operandRange

/-- The operands of FEED as bytes. -/
def feedBytes : List Int → Except AsmError (List Byte)
  | [] => .ok []
  | v :: vs =>
    match inRange 8 0 256 v, feedBytes vs with
    | .error e, _ => .error e
    | _, .error e => .error e
    | .ok b, .ok bs => .ok (b :: bs)

/-- The operands of MKFRAME, each in its width, as the frame's bytes (R69). -/
def mkFrameOperands : List Int → Except AsmError (List Byte)
  | [v, t, a, e, thr, md, st] => do
    let v ← inRange 16 0 65536 v
    let t ← inRange 16 0 65536 t
    let a ← inRange 16 (-32768) 32768 a
    let e ← inRange 32 0 4294967296 e
    let thr ← inRange 16 0 65536 thr
    let md ← inRange 16 0 65536 md
    let st ← inRange 8 0 256 st
    return mkFrame v t a e thr md st
  | vs => .error (if vs.length < 7 then .operandMissing else .operandUnexpected)

/-- The command RD_FLAG k stands for: opcode 0x20 + k, for k from 0 to 5 (R69). -/
def rdFlag : List Int → Except AsmError Word
  | [k] => if 0 ≤ k ∧ k < 6 then .ok (BitVec.ofInt 8 (0x20 + k) ++ 0#8) else .error .operandRange
  | [] => .error .operandMissing
  | _ => .error .operandUnexpected

/-- The operand of a plain command: none or one. -/
def plainOperand : List Int → Except AsmError (Option Nat)
  | [] => .ok none
  | [v] => if 0 ≤ v then .ok (some v.toNat) else .error .operandRange
  | _ => .error .operandUnexpected

/-- The commands of a mnemonic or pseudo-command with its operands and its line's `now_ms` (R68, R69). -/
def expandCommand (m : List Char) (ops : List Int) (now : Option DWord) : Except AsmError (List HostCmd) :=
  if m = "FEED".toList then
    if ops = [] then .error .operandMissing else (feedBytes ops).map (feed (now.getD 0#32))
  else if m = "MKFRAME".toList then (mkFrameOperands ops).map (feed (now.getD 0#32))
  else if now.isSome ∧ m ≠ "PUSH".toList then .error .badAnnotation
  else if m = "RD_FLAG".toList then (rdFlag ops).map (fun w => [⟨w, 0#32⟩])
  else do
    let operand ← plainOperand ops
    let w ← assembleCommand m operand
    return [⟨w, now.getD 0#32⟩]

/-- One line of a program: blank, or one command (R68). -/
def assembleLine (line : List Char) : Except AsmError (List HostCmd) :=
  match tokensFrom [] (stripComment line) with
  | [] => .ok []
  | m :: args => do
    let (ops, now) ← splitAnnotation args
    let vals ← parseInts ops
    expandCommand m vals now

/-- The host's lines for a list of commands: each is offered, then its response taken (60_exceptions.md R231). -/
def hostScript : List HostCmd → List PortIn
  | [] => []
  | c :: cs => ⟨false, true, c.word, c.nowMs, false⟩ :: ⟨false, false, 0#16, 0#32, true⟩ :: hostScript cs

end Sys2Proof.Machine
end

