-- ==== Sys2Proof/Machine/Ring.lean ====
section
/-! DEFINITION. The physical representation of the window (10_state.md R29, 40_window_detector.md R81, R82): a ring of 22
bytes, a head and a count. It is no part of State, since no command can observe it; it is here so that its equivalence
with the plain sequence can be stated (DESIGN CHOICE, log 9). -/

namespace Sys2Proof.Machine

/-- `mem[0..21]`, `head` and `count`. -/
structure Ring where
  mem   : List Byte
  head  : Nat
  count : Nat
  deriving DecidableEq, Repr

/-- The ranges R29 gives the ring. -/
abbrev ringWf (r : Ring) : Prop :=
  r.mem.length = Config.frameLen ∧ r.head < Config.frameLen ∧ r.count ≤ Config.frameLen

/-- The ring after reset: head 0, count 0, any bytes (R29, R240). -/
def ringReset (mem : List Byte) : Ring := ⟨mem, 0, 0⟩

/-- The window a ring stands for: `WIN[i] = mem[(head + i) mod 22]` (R29). -/
def ringWin (r : Ring) : List Byte :=
  (List.range r.count).map (fun i => winByte r.mem ((r.head + i) % Config.frameLen))

/-- WinPush on the ring (R81). -/
def ringPush (r : Ring) (b : Byte) : Ring :=
  if r.count = Config.frameLen then
    { r with mem := r.mem.set r.head b, head := (r.head + 1) % Config.frameLen }
  else { r with mem := r.mem.set ((r.head + r.count) % Config.frameLen) b, count := r.count + 1 }

/-- WinClear on the ring (R82): the bytes of `mem` stay. -/
def ringClear (r : Ring) : Ring := { r with head := 0, count := 0 }

end Sys2Proof.Machine
end

