-- ==== Sys2Proof/Machine/Thermistor.lean ====
section
/-! DEFINITION. The temperature reference function of 42_field_decoder.md R136 over the real numbers, and what it means
for a table to conform to it (R137 property 1). No step evaluates these: the step reads `tempLut`, and claims about a
particular temperature take conformity as a premise (DESIGN CHOICE, log 12). -/

namespace Sys2Proof.Machine

/-- The four thermistor constants and their constraints (00_scope.md R4). -/
structure Thermistor where
  rSeries      : ℝ
  rNominal     : ℝ
  bCoeff       : ℝ
  tNominalC    : ℝ
  rSeries_pos  : 0 < rSeries
  rNominal_pos : 0 < rNominal
  bCoeff_pos   : 0 < bCoeff
  tNominalC_gt : -273.15 < tNominalC

/-- `inv` of R136, the inverse absolute temperature, for a code strictly between 0 and 4096. -/
noncomputable def tempInv (th : Thermistor) (c : ℝ) : ℝ :=
  let x := 4096 / c - 1
  let rntc := th.rSeries / x
  Real.log (rntc / th.rNominal) / th.bCoeff + 1 / (th.tNominalC + 273.15)

/-- T_ref(c) in degrees Celsius, cases (a) to (e) of R136. -/
noncomputable def tRef (th : Thermistor) (code : Word) : ℝ :=
  if code = 0#16 then 0
  else if Config.adcFs ≤ code.toNat then 0
  else
    let inv := tempInv th code.toNat
    if inv < 0 then 0
    else if inv = 0 then 200
    else min (max (1 / inv - 273.15) 0) 200

/-- A conforming TEMP_LUT (R137 property 1): every entry is `rn32(T_ref(c))`. -/
def TempLutConforms (th : Thermistor) (lut : Word → DWord) : Prop := ∀ c, IsRn32 (tRef th c) (lut c)

end Sys2Proof.Machine
end

