-- ==== Sys2Proof/Safety.lean ====
section
/-! DEFINITION. The terms claims are stated in: the invariant of 10_state.md R30, frames and their checksum written without
the model's own operations (41_checksum.md R113), the status each command must answer with, and streams of pushes. -/

namespace Sys2Proof.Safety

open Sys2Proof.Machine

/-! ### The invariant -/

/-- What R26 and R30 item 5 say of the cache: not valid means every register at its reset value; tempC within [+0.0, 200.0];
volts and throttle not negative; no float NaN or infinite. -/
abbrev TelInv (t : Tel) : Prop :=
  (t.valid = false → t = Tel.reset)
  ∧ t.tempC.toNat ≤ Config.tMaxPattern
  ∧ t.volts.msb = false ∧ t.throttle.msb = false
  ∧ isFinite32 t.volts = true ∧ isFinite32 t.amps = true
  ∧ isFinite32 t.throttle = true ∧ isFinite32 t.phaseAmps = true

/-- The invariants of R30, with what R23 says of an unconfigured pole count. They say nothing of the host's lines. -/
abbrev Inv (s : State) : Prop :=
  Memory.wf s.win
  ∧ (s.cfg.configured = false → s.cfg = Cfg.reset ∧ s.win = [] ∧ s.tel = Tel.reset)
  ∧ (s.cfg.configured = true → s.cfg.poleCount ≠ 0#8)
  ∧ ¬ (trigger s.win = true ∧ checksumOk s.win = true)
  ∧ TelInv s.tel

/-! ### Frames and checksums -/

/-- The plain sum of a list of bytes. -/
def sumBytes (data : List Byte) : Nat := (data.map BitVec.toNat).sum

/-- The sum of a list of bytes weighted by how many bytes are left, itself included: `Σ (n - i) * data[i]` (R113). -/
def weightedSum : List Byte → Nat
  | [] => 0
  | b :: bs => (bs.length + 1) * b.toNat + weightedSum bs

/-- A full window that ends in the stop marker (40_window_detector.md R85). -/
abbrev FrameShaped (w : List Byte) : Prop := w.length = 22 ∧ w[20]? = some 0xFF#8 ∧ w[21]? = some 0xFF#8

/-- Bytes 18 and 19 are the checksum of bytes 0 to 17 in the closed form (20_memory.md R46, 41_checksum.md R113). -/
abbrev ChecksumMatches (w : List Byte) : Prop :=
  w[18]? = some (BitVec.ofNat 8 (sumBytes (w.take 18) % 255))
  ∧ w[19]? = some (BitVec.ofNat 8 (weightedSum (w.take 18) % 255))

/-- A valid frame: 22 bytes, the stop marker, a matching checksum (40_window_detector.md R94). -/
abbrev ValidFrame (w : List Byte) : Prop := FrameShaped w ∧ ChecksumMatches w

/-- The window after a push (R81). -/
def pushed (w : List Byte) (b : Byte) : List Byte := if w.length = 22 then w.tail ++ [b] else w ++ [b]

/-! ### Commands -/

/-- The mnemonic of a command (30_encoding.md R62). -/
def mnemonicOf : Instr → List Char
  | .config _    => "CONFIG".toList
  | .rdConfig    => "RD_CONFIG".toList
  | .push _      => "PUSH".toList
  | .clear       => "CLEAR".toList
  | .rdVolts     => "RD_VOLTS".toList
  | .rdTempC     => "RD_TEMPC".toList
  | .rdAmps      => "RD_AMPS".toList
  | .rdRpm       => "RD_RPM".toList
  | .rdThrottle  => "RD_THROTTLE".toList
  | .rdPhaseAmps => "RD_PHASE_AMPS".toList
  | .rdStatus    => "RD_STATUS".toList
  | .rdUpdateTs  => "RD_UPDATE_TS".toList
  | .rdValid     => "RD_VALID".toList
  | .isStarted   => "IS_STARTED".toList
  | .isSaturated => "IS_SATURATED".toList
  | .isOvertemp  => "IS_OVERTEMP".toList
  | .isOvervolt  => "IS_OVERVOLT".toList
  | .isUndervolt => "IS_UNDERVOLT".toList
  | .startErr    => "START_ERR".toList
  | .bufRead _   => "BUF_READ".toList
  | .bufCount    => "BUF_COUNT".toList

/-- The operand a command's line is written with: `imm8` in Format I, none in Format N (30_encoding.md R60, R68). -/
def operandOf : Instr → Option Nat
  | .config p  => some p.toNat
  | .push b    => some b.toNat
  | .bufRead k => some k.toNat
  | .rdConfig | .clear | .rdVolts | .rdTempC | .rdAmps | .rdRpm | .rdThrottle | .rdPhaseAmps | .rdStatus
  | .rdUpdateTs | .rdValid | .isStarted | .isSaturated | .isOvertemp | .isOvervolt | .isUndervolt | .startErr
  | .bufCount => none

/-- Every command but CONFIG and RD_CONFIG needs a configured block (60_exceptions.md R213). -/
def needsConfigured : Instr → Bool
  | .config _ => false
  | .rdConfig => false
  | _ => true

/-- The commands that only read (20_memory.md R48, 60_exceptions.md R226). -/
def readsOnly : Instr → Bool
  | .config _ => false
  | .push _ => false
  | .clear => false
  | _ => true

/-- The status a word must be answered with, in the priority order of 60_exceptions.md R214. -/
def expectedStatus (w : Word) (s : State) : RspStatus :=
  match decode w with
  | .error _ => .errIllegal
  | .ok i =>
    if needsConfigured i ∧ s.cfg.configured = false then .errUnconfigured
    else match i with
      | .config p => if p = 0#8 then .errBadConfig else .ok
      | .bufRead k => if s.win.length ≤ k.toNat then .errRange else .ok
      | _ => .ok

/-- The state with another level on the millisecond input. -/
def withNow (s : State) (t : DWord) : State := { s with port := { s.port with nowMs := t } }

/-! ### Streams -/

/-- The state after one step. -/
def afterStep (s : State) : State :=
  match step s with
  | .next t => t
  | _ => s

/-- One PUSH of the host: the word of PUSH b and the time t on the port, the last response taken, and one step. -/
def pushStep (s : State) (p : Byte × DWord) : State := afterStep (withNow (offerWord s (encode (.push p.1))) p.2)

/-- The data of the response on the channel. -/
def responseData (s : State) : DWord :=
  match s.rsp with
  | some r => r.data
  | none => 0#32

/-- The state after a stream of pushes. -/
def pushAll (s : State) : List (Byte × DWord) → State
  | [] => s
  | p :: ps => pushAll (pushStep s p) ps

/-- The result codes of a stream of pushes, in order. -/
def pushCodes (s : State) : List (Byte × DWord) → List DWord
  | [] => []
  | p :: ps => responseData (pushStep s p) :: pushCodes (pushStep s p) ps

end Sys2Proof.Safety
end

