-- ==== Sys2Proof/Certificates/Slice0/Obligations.lean ====
section
/-! DEFINITION. The statements for the provers, each taken from the numbered rules of spec/ that its docstring names. -/

open Sys2Proof Sys2Proof.Machine Sys2Proof.Safety

/-! ### Reset, invariant and step -/

/-- 70_reset_and_hazards.md R240, 10_state.md R23 to R25: a clock edge with rst 1 sets every element to its reset value,
drops an untaken response, and leaves the block able to accept a command, whatever the state; State.reset is that state. -/
def Obligations.ResetEdgeRestoresResetValues : Prop :=
  (∀ s : State, s.port.rst = true → ∃ t, step s = .next t ∧ t.cfg = ⟨false, 0#8⟩ ∧ t.win = [] ∧
    t.tel = ⟨false, 0#32, 0#32, 0#32, 0#32, 0#32, 0#32, 0#8, 0#32⟩ ∧ t.rsp = none ∧ t.cmdReady = true ∧
    t.port = s.inbox.headD PortIn.quiet ∧ t.inbox = s.inbox.tail) ∧
  State.reset.cfg = ⟨false, 0#8⟩ ∧ State.reset.win = [] ∧
  State.reset.tel = ⟨false, 0#32, 0#32, 0#32, 0#32, 0#32, 0#32, 0#8, 0#32⟩ ∧ State.reset.rsp = none

/-- 10_state.md R30: the invariants hold from reset on (their start). -/
def Obligations.ResetStateMeetsInvariant : Prop := Inv State.reset

/-- 10_state.md R30, R26: the invariants hold between any two commands: every step keeps them, from every state that
meets them. -/
def Obligations.StepKeepsStateInvariant : Prop := ∀ s t : State, Inv s → step s = .next t → Inv t

/-- 60_exceptions.md R212, R216, 93_implementation_defined.md part 1: no input stops the block; from every state, whatever
the host's lines, a step answers a next state. -/
def Obligations.EveryStepAnswersNextState : Prop := ∀ s : State, ∃ t, step s = .next t

/-- 00_scope.md R10, 70_reset_and_hazards.md R251: a block that can accept the word offered to it runs the command the word
decodes to, on that state, and then moves on to the host's next lines. -/
def Obligations.StepRunsOfferedCommand : Prop :=
  ∀ (s t : State) (i : Instr), s.port.rst = false → s.port.cmdValid = true → s.cmdReady = true →
    decode s.port.cmd = .ok i → exec i s = .next t → step s = .next (advancePort t)

/-- 60_exceptions.md R230, 70_reset_and_hazards.md R244: with no reset, no outstanding response and no command offered,
nothing changes but the host's lines. -/
def Obligations.IdleStepChangesNothing : Prop :=
  ∀ s : State, s.port.rst = false → s.port.cmdValid = false → s.rsp = none →
    step s = .next { s with port := s.inbox.headD PortIn.quiet, inbox := s.inbox.tail }

/-- 70_reset_and_hazards.md R251, 60_exceptions.md R230: while a response is outstanding no command is accepted, whatever is
offered; the response is held until rsp_ready and then gone; nothing else changes but the host's lines. -/
def Obligations.OutstandingResponseBlocksCommands : Prop :=
  ∀ (s : State) (r : Response), s.port.rst = false → s.rsp = some r →
    step s = .next { s with rsp := if s.port.rspReady = true then none else some r,
                            port := s.inbox.headD PortIn.quiet, inbox := s.inbox.tail }

/-! ### Encoding -/

/-- 30_encoding.md R60 to R62: the decoder reads back every command from its word, at every operand. -/
def Obligations.DecodeOfEncodeIsIdentity : Prop := ∀ i : Instr, decode (encode i) = .ok i

/-- 30_encoding.md R60 to R62: a word that decodes is the word of the command it decodes to: no bit is dropped. -/
def Obligations.EncodeOfDecodeIsIdentity : Prop := ∀ (w : Word) (i : Instr), decode w = .ok i → encode i = w

/-- 30_encoding.md R63, R65: the decoder accepts a word exactly when it selects a row of the mask and match table, the
command it answers is that row's, and no word selects two rows. -/
def Obligations.DecoderAgreesWithPatternTable : Prop :=
  (∀ w : Word, (∃ i, decode w = .ok i) ↔ legalWord w = true) ∧
  (∀ (w : Word) (i : Instr), decode w = .ok i → rowOf i ∈ patternTable ∧ (rowOf i).selects w = true) ∧
  (∀ (w : Word) (r r' : PatternRow), r ∈ patternTable → r' ∈ patternTable →
    r.selects w = true → r'.selects w = true → r = r')

/-- 30_encoding.md R65, R210, R211, R214: a word that selects no row of R63's table is answered with ERR_ILLEGAL and data 0,
configured or not, and changes no other state. -/
def Obligations.UnselectedWordAnswersIllegal : Prop :=
  ∀ s : State, s.port.rst = false → s.port.cmdValid = true → s.rsp = none → legalWord s.port.cmd = false →
    step s = .next { s with rsp := some ⟨.errIllegal, 0#32⟩, port := s.inbox.headD PortIn.quiet, inbox := s.inbox.tail }

/-- 30_encoding.md R63, R68: some words of each family, and some illegal ones, decode as the spec's tables say. -/
def Obligations.SpecWordsDecodeAsListed : Prop :=
  decode 0x0107#16 = .ok (.config 7#8) ∧ decode 0x0200#16 = .ok .rdConfig ∧
  decode 0x03E8#16 = .ok (.push 0xE8#8) ∧ decode 0x0400#16 = .ok .clear ∧
  decode 0x1000#16 = .ok .rdVolts ∧ decode 0x1800#16 = .ok .rdValid ∧
  decode 0x2000#16 = .ok .isStarted ∧ decode 0x2500#16 = .ok .startErr ∧
  decode 0x3015#16 = .ok (.bufRead 21#8) ∧ decode 0x3100#16 = .ok .bufCount ∧
  decode 0x0000#16 = .error .unassignedOpcode ∧ decode 0x2600#16 = .error .unassignedOpcode ∧
  decode 0x1001#16 = .error .reservedOperand ∧ decode 0x0401#16 = .error .reservedOperand

/-! ### Errors -/

/-- 60_exceptions.md R213: while unconfigured, every command except CONFIG and RD_CONFIG raises ERR_UNCONFIGURED, with data
0 and no other change. -/
def Obligations.UnconfiguredBlockRefusesCommands : Prop :=
  ∀ (i : Instr) (s : State), (∀ p, i ≠ .config p) → i ≠ .rdConfig → s.cfg.configured = false →
    exec i s = .next { s with rsp := some ⟨.errUnconfigured, 0#32⟩ }

/-- 60_exceptions.md R211: a command that raises any error answers with rsp_data 0 and has changed nothing but the
response. -/
def Obligations.ErrorsWriteNoState : Prop :=
  ∀ (w : Word) (s t : State) (e : RspStatus) (d : DWord), runWord w s = .next t → t.rsp = some ⟨e, d⟩ → e ≠ .ok →
    d = 0#32 ∧ t = { s with rsp := some ⟨e, 0#32⟩ }

/-- 60_exceptions.md R210, R214: every word is answered with exactly one status, the first that applies of ERR_ILLEGAL,
ERR_UNCONFIGURED and the command's own check, and OK when none applies. -/
def Obligations.StatusFollowsErrorPriority : Prop :=
  ∀ (w : Word) (s : State), ∃ t d, runWord w s = .next t ∧ t.rsp = some ⟨expectedStatus w s, d⟩

/-- 30_encoding.md R64: the status codes on the wires are 0 to 4; 5, 6 and 7 are never produced. -/
def Obligations.StatusCodesAreBelowFive : Prop :=
  rspCode .ok = 0#3 ∧ rspCode .errIllegal = 1#3 ∧ rspCode .errUnconfigured = 2#3 ∧ rspCode .errBadConfig = 3#3 ∧
  rspCode .errRange = 4#3 ∧ ∀ e, (rspCode e).toNat < 5

/-! ### Configuration -/

/-- 44_configuration.md R190: CONFIG p with p not 0, in every state: the pole count set, the block configured, window and
cache as new, OK/0, and nothing else changed. -/
def Obligations.ConfigConstructsInstance : Prop :=
  ∀ (p : Byte) (s : State), p ≠ 0#8 →
    exec (.config p) s = .next { s with
      cfg := ⟨true, p⟩
      win := []
      tel := ⟨false, 0#32, 0#32, 0#32, 0#32, 0#32, 0#32, 0#8, 0#32⟩
      rsp := some ⟨.ok, 0#32⟩ }

/-- 44_configuration.md R191: CONFIG 0 answers ERR_BADCONFIG in every state and changes no state at all. -/
def Obligations.ConfigZeroIsRefused : Prop :=
  ∀ s : State, exec (.config 0#8) s = .next { s with rsp := some ⟨.errBadConfig, 0#32⟩ }

/-- 44_configuration.md R193, 10_state.md R23: RD_CONFIG answers in every state with pole_count at 7:0, configured at bit 8
and zeros above, and writes nothing. -/
def Obligations.RdConfigReadsConfiguration : Prop :=
  ∀ s : State, ∃ d : DWord, exec .rdConfig s = .next { s with rsp := some ⟨.ok, d⟩ } ∧
    d.extractLsb' 0 8 = s.cfg.poleCount ∧ d.getLsbD 8 = s.cfg.configured ∧ d.extractLsb' 9 23 = 0#23

/-- 44_configuration.md R192, 10_state.md R23: only a successful CONFIG writes CFG. -/
def Obligations.OnlyConfigWritesConfiguration : Prop :=
  ∀ (w : Word) (s t : State), runWord w s = .next t → t.cfg ≠ s.cfg →
    ∃ p, decode w = .ok (.config p) ∧ p ≠ 0#8 ∧ t.cfg = ⟨true, p⟩

/-! ### Window commands -/

/-- 40_window_detector.md R90: CLEAR on a configured block empties the window, answers OK/0, and changes nothing else. -/
def Obligations.ClearEmptiesWindow : Prop :=
  ∀ s : State, s.cfg.configured = true → exec .clear s = .next { s with win := [], rsp := some ⟨.ok, 0#32⟩ }

/-- 40_window_detector.md R91: BUF_READ i answers with the byte at position i, zero-extended, when i is held, and with
ERR_RANGE otherwise, changing nothing else. -/
def Obligations.BufReadReturnsHeldByte : Prop :=
  ∀ (i : Byte) (s : State), s.cfg.configured = true →
    (∀ b, s.win[i.toNat]? = some b → exec (.bufRead i) s = .next { s with rsp := some ⟨.ok, BitVec.ofNat 32 b.toNat⟩ }) ∧
    (s.win.length ≤ i.toNat → exec (.bufRead i) s = .next { s with rsp := some ⟨.errRange, 0#32⟩ })

/-- 40_window_detector.md R92, 30_encoding.md R66: BUF_COUNT answers with the length at 4:0, full at bit 8 and zeros
elsewhere, for a window within its capacity (an invariant of its own), and writes nothing. -/
def Obligations.BufCountReportsLengthAndFull : Prop :=
  ∀ s : State, s.cfg.configured = true → Memory.wf s.win →
    exec .bufCount s = .next { s with rsp := some ⟨.ok,
      BitVec.ofNat 32 (if s.win.length = 22 then 0x116 else s.win.length)⟩ }

/-! ### PUSH -/

/-- 40_window_detector.md R81, R85, R86: a push that does not complete a full window ending in 0xFF 0xFF appends the byte
(evicting the oldest at 22), answers result code 0, and changes nothing else. -/
def Obligations.PushWithoutTriggerAppends : Prop :=
  ∀ (b : Byte) (s : State), s.cfg.configured = true → ¬ FrameShaped (pushed s.win b) →
    exec (.push b) s = .next { s with win := pushed s.win b, rsp := some ⟨.ok, 0x00000000#32⟩ }

/-- 40_window_detector.md R86, R88, R89: a triggering push whose checksum does not match answers -1 as an OK response and
keeps the window; the cache and the configuration stay. -/
def Obligations.PushChecksumFailureKeepsWindow : Prop :=
  ∀ (b : Byte) (s : State), s.cfg.configured = true → FrameShaped (pushed s.win b) →
    ¬ ChecksumMatches (pushed s.win b) →
    exec (.push b) s = .next { s with win := pushed s.win b, rsp := some ⟨.ok, 0xFFFFFFFF#32⟩ }

/-- 40_window_detector.md R86, R87, 42_field_decoder.md R135 to R145, 20_memory.md R42 to R45: a push that completes a valid
frame replaces the nine cache registers by the converted fields at their offsets, empties the window, answers 1, and
changes nothing else. -/
def Obligations.PushOfValidFrameDecodes : Prop :=
  ∀ (b : Byte) (s : State), s.cfg.configured = true → s.cfg.poleCount ≠ 0#8 → ValidFrame (pushed s.win b) →
    let f := fun i => (pushed s.win b).getD i 0#8
    let amps := rn32 (2 * (f 5 ++ f 4).toInt) 25
    exec (.push b) s = .next { s with
      win := []
      tel := { valid     := true
               volts     := rn32 (f 1 ++ f 0).toNat 100
               tempC     := tempLut (f 3 ++ f 2)
               amps      := amps
               rpm       := BitVec.ofNat 32 ((f 11 ++ f 10 ++ f 9 ++ f 8).toNat / s.cfg.poleCount.toNat)
               throttle  := rn32 (f 13 ++ f 12).toNat 10000
               phaseAmps := if (f 15 ++ f 14).toNat = 0 then 0#32
                            else rn32 (units32 amps * 10000) (unitScale * (f 15 ++ f 14).toNat)
               status    := f 16
               updateTs  := s.port.nowMs }
      rsp := some ⟨.ok, 0x00000001#32⟩ }

/-- 40_window_detector.md R97: 20 zero bytes and 0xFF 0xFF are accepted as a frame. -/
def Obligations.FalseZeroFrameIsAccepted : Prop :=
  ∀ s : State, s.cfg.configured = true → s.win = List.replicate 20 0#8 ++ [0xFF#8] →
    ∃ t, exec (.push 0xFF#8) s = .next t ∧ t.rsp = some ⟨.ok, 1#32⟩ ∧ t.win = [] ∧ t.tel.valid = true ∧ t.cfg = s.cfg

/-- 10_state.md R25, 42_field_decoder.md R145: the cache changes only by a successful decode, which sets valid, or by a
successful CONFIG, which returns it to its reset value. -/
def Obligations.CacheChangesOnlyByDecodeOrConfig : Prop :=
  ∀ (w : Word) (s t : State), runWord w s = .next t → t.tel ≠ s.tel →
    (∃ b, decode w = .ok (.push b) ∧ t.rsp = some ⟨.ok, 1#32⟩ ∧ t.tel.valid = true ∧ t.win = []) ∨
    (∃ p, decode w = .ok (.config p) ∧ p ≠ 0#8 ∧ t.tel = Tel.reset)

/-- 10_state.md R24: three commands write the window, PUSH, CLEAR and a successful CONFIG; PUSH leaves the pushed window or,
on a success, none; the others leave none. -/
def Obligations.WindowChangesOnlyByItsThreeCommands : Prop :=
  ∀ (w : Word) (s t : State), runWord w s = .next t → t.win ≠ s.win →
    (∃ b, decode w = .ok (.push b) ∧ (t.win = pushed s.win b ∨ (t.win = [] ∧ t.rsp = some ⟨.ok, 1#32⟩))) ∨
    (decode w = .ok .clear ∧ t.win = []) ∨
    (∃ p, decode w = .ok (.config p) ∧ p ≠ 0#8 ∧ t.win = [])

/-- 60_exceptions.md R222, 40_window_detector.md R87: the millisecond input reaches the update_ts of a successful decode and
nothing else: two runs of a command that differ in it only agree in everything else. -/
def Obligations.NowMsReachesOnlyTimestamp : Prop :=
  ∀ (i : Instr) (s t₁ t₂ : State) (n₁ n₂ : DWord),
    exec i (withNow s n₁) = .next t₁ → exec i (withNow s n₂) = .next t₂ →
    t₁.cfg = t₂.cfg ∧ t₁.win = t₂.win ∧ t₁.rsp = t₂.rsp ∧ t₁.inbox = t₂.inbox ∧
    { t₁.tel with updateTs := 0#32 } = { t₂.tel with updateTs := 0#32 } ∧
    (t₁.tel.updateTs ≠ t₂.tel.updateTs → (∃ b, i = .push b) ∧ t₁.rsp = some ⟨.ok, 1#32⟩ ∧
      t₁.tel.updateTs = n₁ ∧ t₂.tel.updateTs = n₂)

/-! ### Accessors and flags -/

/-- 42_field_decoder.md R149 to R158: on a configured block each accessor answers OK with its register, the status byte and
the valid bit zero-extended, and writes nothing. -/
def Obligations.AccessorsReturnTheirRegisters : Prop :=
  ∀ s : State, s.cfg.configured = true →
    exec .rdVolts s = .next { s with rsp := some ⟨.ok, s.tel.volts⟩ } ∧
    exec .rdTempC s = .next { s with rsp := some ⟨.ok, s.tel.tempC⟩ } ∧
    exec .rdAmps s = .next { s with rsp := some ⟨.ok, s.tel.amps⟩ } ∧
    exec .rdRpm s = .next { s with rsp := some ⟨.ok, s.tel.rpm⟩ } ∧
    exec .rdThrottle s = .next { s with rsp := some ⟨.ok, s.tel.throttle⟩ } ∧
    exec .rdPhaseAmps s = .next { s with rsp := some ⟨.ok, s.tel.phaseAmps⟩ } ∧
    exec .rdStatus s = .next { s with rsp := some ⟨.ok, BitVec.ofNat 32 s.tel.status.toNat⟩ } ∧
    exec .rdUpdateTs s = .next { s with rsp := some ⟨.ok, s.tel.updateTs⟩ } ∧
    exec .rdValid s = .next { s with rsp := some ⟨.ok, if s.tel.valid = true then 1#32 else 0#32⟩ }

/-- 43_status_query.md R170 to R177: on a configured block flag command k answers OK with 1 if bit k of the status byte is
set and 0 if not, and writes nothing. -/
def Obligations.FlagCommandsTestTheirBits : Prop :=
  ∀ s : State, s.cfg.configured = true →
    let bit := fun k => if s.tel.status.toNat / 2 ^ k % 2 = 1 then 1#32 else 0#32
    exec .isStarted s = .next { s with rsp := some ⟨.ok, bit 0⟩ } ∧
    exec .isSaturated s = .next { s with rsp := some ⟨.ok, bit 1⟩ } ∧
    exec .isOvertemp s = .next { s with rsp := some ⟨.ok, bit 2⟩ } ∧
    exec .isOvervolt s = .next { s with rsp := some ⟨.ok, bit 3⟩ } ∧
    exec .isUndervolt s = .next { s with rsp := some ⟨.ok, bit 4⟩ } ∧
    exec .startErr s = .next { s with rsp := some ⟨.ok, bit 5⟩ }

/-- 43_status_query.md R178: the six flag commands answer for a status byte exactly as for that byte AND 0x3F, and RD_STATUS
still returns all 8 bits. -/
def Obligations.FlagsIgnoreHighStatusBits : Prop :=
  (∀ (i : Instr) (s : State) (t t' : State) (st : Byte),
    i ∈ [.isStarted, .isSaturated, .isOvertemp, .isOvervolt, .isUndervolt, .startErr] →
    exec i { s with tel := { s.tel with status := st } } = .next t →
    exec i { s with tel := { s.tel with status := st &&& 0x3F#8 } } = .next t' → t.rsp = t'.rsp) ∧
  (∀ s : State, s.cfg.configured = true →
    exec .rdStatus s = .next { s with rsp := some ⟨.ok, s.tel.status.zeroExtend 32⟩ })

/-- 20_memory.md R48, 60_exceptions.md R226: a command that only reads changes nothing but the response, and read again
gives the same answer. -/
def Obligations.ReadsChangeOnlyTheResponse : Prop :=
  ∀ (i : Instr) (s t u : State), readsOnly i = true → exec i s = .next t → exec i t = .next u →
    t = { s with rsp := t.rsp } ∧ u = t

/-- 30_encoding.md R64, 00_scope.md R10: every command answers exactly one response, whatever was on the channel before, and
leaves the host's lines as they are. -/
def Obligations.EveryCommandAnswersOneResponse : Prop :=
  ∀ (i : Instr) (s t : State), exec i s = .next t → (∃ r, t.rsp = some r) ∧ t.port = s.port ∧ t.inbox = s.inbox

/-! ### The checksum -/

/-- 41_checksum.md R113: the two accumulators in closed form, for data of any length. -/
def Obligations.FletcherEqualsClosedForm : Prop :=
  ∀ data : List Byte, fletcher16 data = (sumBytes data % 255, weightedSum data % 255)

/-- 41_checksum.md R112: both accumulators are at most 254 after every byte, so a full window with 0xFF at offset 18 or 19
always fails validation. -/
def Obligations.ChecksumBytesAreNeverFF : Prop :=
  (∀ data : List Byte, (fletcher16 data).1 ≤ 254 ∧ (fletcher16 data).2 ≤ 254) ∧
  (∀ w : List Byte, w.length = 22 → (w[18]? = some 0xFF#8 ∨ w[19]? = some 0xFF#8) → checksumOk w = false)

/-- 41_checksum.md R111, 20_memory.md R46: the validator of a full window accepts exactly when byte 18 is c0 and byte 19 is c1. -/
def Obligations.ValidatorComparesBothBytes : Prop :=
  ∀ w : List Byte, w.length = 22 → (checksumOk w = true ↔ ChecksumMatches w)

/-- 41_checksum.md R114, 90_conflicts.md C1: changing one data byte leaves the checksum as it was exactly when the change is
none, 0x00 to 0xFF, or 0xFF to 0x00. -/
def Obligations.SingleByteDetectionLaw : Prop :=
  ∀ (data : List Byte) (j : Nat) (b b' : Byte), data.length = 18 → data[j]? = some b →
    (fletcher16 (data.set j b') = fletcher16 data ↔
      b' = b ∨ (b = 0x00#8 ∧ b' = 0xFF#8) ∨ (b = 0xFF#8 ∧ b' = 0x00#8))

/-- 41_checksum.md R115: swapping data bytes j < k leaves c0 and adds (k - j)(data[k] - data[j]) to c1 modulo 255; swapping
the two halves of the checksum field of an accepted window is accepted only where they are equal. -/
def Obligations.SwapLaws : Prop :=
  (∀ (data : List Byte) (j k : Nat) (x y : Byte), data.length = 18 → j < k → data[j]? = some x → data[k]? = some y →
    (fletcher16 ((data.set j y).set k x)).1 = (fletcher16 data).1 ∧
    ((fletcher16 ((data.set j y).set k x)).2 : Int) % 255 =
      ((fletcher16 data).2 + ((k : Int) - j) * ((y.toNat : Int) - x.toNat)) % 255) ∧
  (∀ (w : List Byte) (x y : Byte), w.length = 22 → w[18]? = some x → w[19]? = some y → checksumOk w = true →
    (checksumOk ((w.set 18 y).set 19 x) = true ↔ x = y))

/-! ### Conversions -/

/-- 00_scope.md R8, 42_field_decoder.md R131: rn32 of a quotient no larger than the largest finite binary32 is the nearest
binary32, ties to the even significand. -/
def Obligations.RoundingIsNearestTiesToEven : Prop :=
  ∀ (num : Int) (den : Nat), 0 < den → num.natAbs ≤ (2 ^ 24 - 1) * 2 ^ 104 * den →
    IsRn32 ((num : ℝ) / (den : ℝ)) (rn32 num den)

/-- 42_field_decoder.md R140: the rpm is the truncated quotient of the eRPM by the pole count as given. -/
def Obligations.RpmIsTruncatedQuotient : Prop :=
  ∀ (e : DWord) (p : Byte), p ≠ 0#8 → (rpmOf e p).toNat = e.toNat / p.toNat

/-- 42_field_decoder.md R146: the ranges, the smallest nonzero magnitudes and the absence of -0.0 (and so of NaN and
infinities) of every float a decode commits. -/
def Obligations.DecodedFloatsAreInRange : Prop :=
  ∀ (w : List Byte) (p : Byte) (t : DWord),
    let c := commitDecode w p t
    let mag := fun v : DWord => v.toNat % 2 ^ 31
    (c.volts = 0#32 ∨ (0x3C23D70A ≤ c.volts.toNat ∧ c.volts.toNat ≤ 0x4423D666)) ∧
    c.tempC.toNat ≤ 0x43480000 ∧
    (c.amps = 0#32 ∨ (0x3DA3D70A ≤ mag c.amps ∧ mag c.amps ≤ 0x4523D70A ∧
      (c.amps.msb = false → c.amps.toNat ≤ 0x4523D5C3))) ∧
    (c.throttle = 0#32 ∨ (0x38D1B717 ≤ c.throttle.toNat ∧ c.throttle.toNat ≤ 0x40D1B646)) ∧
    (c.phaseAmps = 0#32 ∨ (0x3C4800C8 ≤ mag c.phaseAmps ∧ mag c.phaseAmps ≤ 0x4BC80000))

/-- 42_field_decoder.md R138: a negative current gives the positive one's pattern with the sign bit set. -/
def Obligations.AmpsIsSymmetric : Prop :=
  ∀ a : Int, 0 < a → a ≤ 32768 → ampsOf (-a) = ampsOf a ||| 0x80000000#32 ∧ (ampsOf a).msb = false

/-- 42_field_decoder.md R142, 90_conflicts.md C2: phase_amps is +0.0 exactly when the duty or the raw current is 0. -/
def Obligations.PhaseAmpsZeroLaw : Prop :=
  ∀ (ra : Int) (duty : Nat), -32768 ≤ ra → ra ≤ 32767 → duty < 65536 →
    (phaseAmpsOf (ampsOf ra) duty = 0#32 ↔ duty = 0 ∨ ra = 0)

/-- 20_memory.md R55: the reserved bytes 6, 7 and 17 are decoded by nothing. -/
def Obligations.ReservedBytesAreNotDecoded : Prop :=
  ∀ (w : List Byte) (p b : Byte) (t : DWord) (k : Nat), w.length = 22 → k ∈ [6, 7, 17] →
    commitDecode (w.set k b) p t = commitDecode w p t

/-! ### Temperature -/

/-- 42_field_decoder.md R137: the table's two fixed values, and every entry a pattern from +0.0 to 200.0. -/
def Obligations.TempLutHasRequiredValues : Prop :=
  tempLut 0#16 = 0#32 ∧ (∀ c : Word, 4096 ≤ c.toNat → tempLut c = 0#32) ∧
  ∀ c : Word, (tempLut c).toNat ≤ 0x43480000 ∧ 0 ≤ val32 (tempLut c) ∧ val32 (tempLut c) ≤ 200

/-- 42_field_decoder.md R137: property 1 (every entry is rn32 of T_ref) gives property 2 (0 at code 0 and from 4096 up, and
every entry from +0.0 to 200.0), for any positive thermistor constants. -/
def Obligations.ConformingTableIsInRange : Prop :=
  ∀ (th : Thermistor) (lut : Word → DWord), TempLutConforms th lut →
    lut 0#16 = 0#32 ∧ (∀ c : Word, 4096 ≤ c.toNat → lut c = 0#32) ∧ ∀ c : Word, (lut c).toNat ≤ 0x43480000

/-- 42_field_decoder.md R136: T_ref lies in [0, 200] for every code, and with R_SERIES = R_NOMINAL code 2048 gives
T_NOMINAL_C exactly, where that lies in the clamp's range. -/
def Obligations.ReferenceTemperatureRangeAndNominal : Prop :=
  ∀ th : Thermistor, (∀ c : Word, 0 ≤ tRef th c ∧ tRef th c ≤ 200) ∧
    (th.rSeries = th.rNominal → 0 ≤ th.tNominalC → th.tNominalC ≤ 200 → tRef th 2048#16 = th.tNominalC)

/-- 42_field_decoder.md R136: where inv is positive, T_ref does not increase with the code. -/
def Obligations.ReferenceTemperatureDoesNotIncrease : Prop :=
  ∀ (th : Thermistor) (c c' : Word), c ≠ 0#16 → c.toNat ≤ c'.toNat → c'.toNat < 4096 →
    0 < tempInv th c.toNat → tRef th c' ≤ tRef th c

/-! ### Streams -/

/-- 40_window_detector.md R93: while no push of a stream returns 1, the window holds the last 22 bytes of what it held and
what was pushed since, or all of them when they are fewer. -/
def Obligations.WindowIsTailOfStream : Prop :=
  ∀ (s : State) (ps : List (Byte × DWord)), s.cfg.configured = true → Memory.wf s.win →
    (∀ c ∈ pushCodes s ps, c ≠ 1#32) →
    (pushAll s ps).win = (s.win ++ ps.map Prod.fst).drop ((s.win ++ ps.map Prod.fst).length - 22)

/-- 40_window_detector.md R94 item 1: from any configured state, pushing a valid frame returns 1 on its last byte exactly
when no earlier push of the frame returned 1. -/
def Obligations.FrameIsFoundUnlessEarlierSuccess : Prop :=
  ∀ (s : State) (ps : List (Byte × DWord)), s.cfg.configured = true → Memory.wf s.win → ValidFrame (ps.map Prod.fst) →
    ((pushCodes s ps).getLast? = some 1#32 ↔ ∀ c ∈ (pushCodes s ps).dropLast, c ≠ 1#32)

/-- 40_window_detector.md R95: with a full window (as after a -1), two pushes of which the first does not return 1: the
second triggers exactly when both bytes are 0xFF. -/
def Obligations.AfterFailureOnlyStopPairTriggers : Prop :=
  ∀ (s : State) (p q : Byte × DWord), s.cfg.configured = true → s.win.length = 22 →
    responseData (pushStep s p) ≠ 1#32 →
    (responseData (pushStep (pushStep s p) q) ≠ 0#32 ↔ p.1 = 0xFF#8 ∧ q.1 = 0xFF#8)

/-- 40_window_detector.md R96, R86: after a push that returned 1, the next 21 pushes return 0: two successes are at least 22
pushes apart. -/
def Obligations.SuccessesAreTwentyTwoPushesApart : Prop :=
  ∀ (s : State) (p : Byte × DWord) (ps : List (Byte × DWord)), s.cfg.configured = true →
    responseData (pushStep s p) = 1#32 → ps.length ≤ 21 → ∀ c ∈ pushCodes (pushStep s p) ps, c = 0#32

/-! ### The ring, the frame builder and the assembler -/

/-- 10_state.md R29, 40_window_detector.md R81, R82: the ring of 22 bytes with head and count represents the window: the
ring's push and clear are the window's, its ranges are kept, and the reset ring is the empty window. -/
def Obligations.RingRefinesWindow : Prop :=
  (∀ (r : Ring) (b : Byte), ringWf r → ringWf (ringPush r b) ∧ ringWin (ringPush r b) = winPush (ringWin r) b) ∧
  (∀ r : Ring, ringWf r → ringWf (ringClear r) ∧ ringWin (ringClear r) = winClear ∧ (ringWin r).length = r.count) ∧
  (∀ mem : List Byte, mem.length = 22 → ringWf (ringReset mem) ∧ ringWin (ringReset mem) = [])

/-- 30_encoding.md R69, 20_memory.md R42 to R46: the frame MKFRAME builds is a valid frame of 22 bytes, and field extraction
reads back every operand. -/
def Obligations.BuiltFrameDecodesToItsOperands : Prop :=
  ∀ (v t a : Word) (e : DWord) (thr md : Word) (st : Byte),
    ValidFrame (mkFrame v t a e thr md st) ∧
    rawFields (mkFrame v t a e thr md st) = ⟨v.toNat, t, a.toInt, e, thr.toNat, md.toNat, st⟩

/-- 30_encoding.md R68: a mnemonic and operand either assemble to a legal word with the operand in its low byte, or are one
of the assembly errors: an operand on Format N, or one past 255 on Format I. That Format I without an operand is an error is
the model's choice (DESIGN CHOICE, log 10): R68's list of assembly errors does not name it. -/
def Obligations.AssemblerEncodesOrRefuses : Prop :=
  ∀ row ∈ mnemonicTable,
    (row.2.1 = .n → assembleCommand row.1 none = .ok (row.2.2 ++ 0#8) ∧ legalWord (row.2.2 ++ 0#8) = true ∧
      ∀ v, assembleCommand row.1 (some v) = .error .operandUnexpected) ∧
    (row.2.1 = .i → assembleCommand row.1 none = .error .operandMissing ∧
      (∀ v, v < 256 → assembleCommand row.1 (some v) = .ok (row.2.2 ++ BitVec.ofNat 8 v) ∧
        legalWord (row.2.2 ++ BitVec.ofNat 8 v) = true) ∧
      ∀ v, 256 ≤ v → assembleCommand row.1 (some v) = .error .operandRange)

/-- 30_encoding.md R62, R68: every command's mnemonic, with its operand in Format I and none in Format N, assembles to that
command's own word. -/
def Obligations.AssemblerGivesEachCommandItsWord : Prop :=
  ∀ i : Instr, assembleCommand (mnemonicOf i) (operandOf i) = .ok (encode i)
end

