-- ==== Sys2Proof/Laws/Encoding.lean ====
section
/-! SUPPORT. The small lemmas of the encoding (30_encoding.md R60, R62): the two halves of a word, and the opcode map. -/

namespace Sys2Proof

/-- The number of a word built from its two bytes. -/
theorem toNat_append_bytes (op imm : Byte) : (op ++ imm : Word).toNat = 256 * op.toNat + imm.toNat := by
  have h := BitVec.toNat_append op imm
  rw [Nat.shiftLeft_eq, Nat.mul_comm, ← Nat.two_pow_add_eq_or_of_lt imm.isLt] at h
  simpa using h

@[simp] theorem opcodeOf_append (op imm : Byte) : opcodeOf (op ++ imm) = op := by
  apply BitVec.eq_of_toNat_eq
  have := imm.isLt
  simp only [opcodeOf, BitVec.extractLsb'_toNat, toNat_append_bytes, Nat.shiftRight_eq_div_pow]
  omega

@[simp] theorem immOf_append (op imm : Byte) : immOf (op ++ imm) = imm := by
  apply BitVec.eq_of_toNat_eq
  have := imm.isLt
  simp only [immOf, BitVec.extractLsb'_toNat, toNat_append_bytes, Nat.shiftRight_eq_div_pow]
  omega

/-- A word is its opcode byte and its low byte. -/
theorem opcodeOf_append_immOf (w : Word) : opcodeOf w ++ immOf w = w := by
  apply BitVec.eq_of_toNat_eq
  have := w.isLt
  rw [toNat_append_bytes]
  simp only [opcodeOf, immOf, BitVec.extractLsb'_toNat, Nat.shiftRight_eq_div_pow]
  omega

/-- Everything the opcode map can answer: a command of that opcode, with the low byte as its operand in Format I and
none in Format N. -/
theorem commandOf_cases {op imm : Byte} {f : Format} {i : Instr} (h : commandOf op imm = some (f, i)) :
    opcodeByte i = op ∧ ((f = .i ∧ immByte i = imm) ∨ (f = .n ∧ immByte i = 0#8)) := by
  simp only [commandOf, Option.map_eq_some_iff] at h
  obtain ⟨⟨op', f', i'⟩, h1, h2⟩ := h
  have hop : op' = op := by simpa using List.find?_some h1
  have hmem := List.mem_of_find?_eq_some h1
  cases h2; subst hop
  simp only [opcodeMap, List.mem_cons, Prod.mk.injEq, List.not_mem_nil, or_false] at hmem
  rcases hmem with h | h | h | h | h | h | h | h | h | h | h | h | h | h | h | h | h | h | h | h | h <;>
    (obtain ⟨rfl, rfl, rfl⟩ := h; simp [opcodeByte, immByte])

end Sys2Proof
end

