-- ==== Sys2Proof/Laws/State.lean ====
section
/-! SUPPORT. One lemma per field per update of the state, so that no later proof unfolds a record update. -/

namespace Sys2Proof.Machine

/-! ### respond -/

@[simp] theorem respond_cfg (s : State) (d : DWord) : (respond s d).cfg = s.cfg := rfl
@[simp] theorem respond_win (s : State) (d : DWord) : (respond s d).win = s.win := rfl
@[simp] theorem respond_tel (s : State) (d : DWord) : (respond s d).tel = s.tel := rfl
@[simp] theorem respond_rsp (s : State) (d : DWord) : (respond s d).rsp = some ⟨.ok, d⟩ := rfl
@[simp] theorem respond_port (s : State) (d : DWord) : (respond s d).port = s.port := rfl
@[simp] theorem respond_inbox (s : State) (d : DWord) : (respond s d).inbox = s.inbox := rfl

/-! ### raise -/

@[simp] theorem raise_cfg (s : State) (e : RspStatus) : (raise s e).cfg = s.cfg := rfl
@[simp] theorem raise_win (s : State) (e : RspStatus) : (raise s e).win = s.win := rfl
@[simp] theorem raise_tel (s : State) (e : RspStatus) : (raise s e).tel = s.tel := rfl
@[simp] theorem raise_rsp (s : State) (e : RspStatus) : (raise s e).rsp = some ⟨e, 0#32⟩ := rfl
@[simp] theorem raise_port (s : State) (e : RspStatus) : (raise s e).port = s.port := rfl
@[simp] theorem raise_inbox (s : State) (e : RspStatus) : (raise s e).inbox = s.inbox := rfl

/-! ### construct -/

@[simp] theorem construct_cfg (s : State) (p : Byte) : (construct s p).cfg = ⟨true, p⟩ := rfl
@[simp] theorem construct_win (s : State) (p : Byte) : (construct s p).win = [] := rfl
@[simp] theorem construct_tel (s : State) (p : Byte) : (construct s p).tel = Tel.reset := rfl
@[simp] theorem construct_rsp (s : State) (p : Byte) : (construct s p).rsp = s.rsp := rfl
@[simp] theorem construct_port (s : State) (p : Byte) : (construct s p).port = s.port := rfl
@[simp] theorem construct_inbox (s : State) (p : Byte) : (construct s p).inbox = s.inbox := rfl

/-! ### offerWord -/

@[simp] theorem offerWord_cfg (s : State) (w : Word) : (offerWord s w).cfg = s.cfg := rfl
@[simp] theorem offerWord_win (s : State) (w : Word) : (offerWord s w).win = s.win := rfl
@[simp] theorem offerWord_tel (s : State) (w : Word) : (offerWord s w).tel = s.tel := rfl
@[simp] theorem offerWord_rsp (s : State) (w : Word) : (offerWord s w).rsp = none := rfl
@[simp] theorem offerWord_inbox (s : State) (w : Word) : (offerWord s w).inbox = s.inbox := rfl
@[simp] theorem offerWord_port (s : State) (w : Word) :
    (offerWord s w).port = ⟨false, true, w, s.port.nowMs, s.port.rspReady⟩ := rfl

/-! ### advancePort -/

@[simp] theorem advancePort_cfg (s : State) : (advancePort s).cfg = s.cfg := by
  unfold advancePort; split <;> rfl
@[simp] theorem advancePort_win (s : State) : (advancePort s).win = s.win := by
  unfold advancePort; split <;> rfl
@[simp] theorem advancePort_tel (s : State) : (advancePort s).tel = s.tel := by
  unfold advancePort; split <;> rfl
@[simp] theorem advancePort_rsp (s : State) : (advancePort s).rsp = s.rsp := by
  unfold advancePort; split <;> rfl
@[simp] theorem advancePort_port (s : State) : (advancePort s).port = s.inbox.headD PortIn.quiet := by
  unfold advancePort; split <;> simp [*]
@[simp] theorem advancePort_inbox (s : State) : (advancePort s).inbox = s.inbox.tail := by
  unfold advancePort; split <;> simp [*]

/-! ### resetEdge -/

@[simp] theorem resetEdge_cfg (s : State) : (resetEdge s).cfg = Cfg.reset := by simp [resetEdge, State.reset]
@[simp] theorem resetEdge_win (s : State) : (resetEdge s).win = [] := by simp [resetEdge, State.reset]
@[simp] theorem resetEdge_tel (s : State) : (resetEdge s).tel = Tel.reset := by simp [resetEdge, State.reset]
@[simp] theorem resetEdge_rsp (s : State) : (resetEdge s).rsp = none := by simp [resetEdge, State.reset]

/-! ### responseCycle -/

@[simp] theorem responseCycle_cfg (s : State) : (responseCycle s).cfg = s.cfg := by
  simp only [responseCycle, advancePort_cfg]; split <;> rfl
@[simp] theorem responseCycle_win (s : State) : (responseCycle s).win = s.win := by
  simp only [responseCycle, advancePort_win]; split <;> rfl
@[simp] theorem responseCycle_tel (s : State) : (responseCycle s).tel = s.tel := by
  simp only [responseCycle, advancePort_tel]; split <;> rfl
@[simp] theorem responseCycle_rsp (s : State) :
    (responseCycle s).rsp = if s.port.rspReady then none else s.rsp := by
  simp only [responseCycle, advancePort_rsp]; split <;> rfl

end Sys2Proof.Machine
end

