-- ==== Sys2Proof/Laws/Ops.lean ====
section
/-! SUPPORT. One lemma for each shared operation: what it can do, and that the window keeps its canonical form. -/

namespace Sys2Proof.Machine

/-! ### The window keeps its form -/

theorem winPush_length (w : List Byte) (b : Byte) :
    (winPush w b).length = if w.length = 22 then 22 else w.length + 1 := by
  unfold winPush; simp only [Config.frameLen]; split <;> simp [*]

/-- WinPush keeps `Memory.wf` (R81: the length never exceeds 22). -/
theorem winPush_wf (w : List Byte) (b : Byte) (h : Memory.wf w) : Memory.wf (winPush w b) := by
  simp only [Memory.wf, Config.frameLen] at h ⊢
  rw [winPush_length]; split <;> omega

/-- WinClear keeps `Memory.wf` (R82). -/
theorem winClear_wf : Memory.wf winClear := Nat.zero_le _

/-- The window after reset has its canonical form (R240). -/
theorem reset_win_wf : Memory.wf State.reset.win := Nat.zero_le _

/-- PUSH keeps `Memory.wf`: a success empties the window, any other result leaves the pushed one. -/
theorem pushByte_wf (b : Byte) (t : DWord) (s : State) (h : Memory.wf s.win) : Memory.wf (pushByte b t s).win := by
  have := winPush_wf s.win b h
  simp only [pushByte]; split
  · split
    · exact Nat.zero_le _
    · exact this
  · exact this

/-- CONFIG's construction keeps `Memory.wf`. -/
theorem construct_wf (s : State) (p : Byte) : Memory.wf (construct s p).win := Nat.zero_le _

/-- The port events keep the window, or empty it. -/
theorem advancePort_wf (s : State) (h : Memory.wf s.win) : Memory.wf (advancePort s).win := by
  simpa [Memory.wf] using h

/-! ### Reading the window -/

/-- Inside the bytes held, `win[i]` is the byte at that position (R84). -/
theorem winByte_of_lt (w : List Byte) (i : Nat) (h : i < w.length) : winByte w i = w[i] := by
  simp [winByte, h]

theorem memRead_zero (w : List Byte) (off : Nat) : memRead w off 0 = 0 := rfl

theorem memRead_succ (w : List Byte) (off n : Nat) :
    memRead w off (n + 1) = (winByte w off).toNat + 256 * memRead w (off + 1) n := rfl

/-- A little-endian read of `n` bytes is below `256 ^ n` (R44). -/
theorem memRead_lt (w : List Byte) (off n : Nat) : memRead w off n < 256 ^ n := by
  induction n generalizing off with
  | zero => simp [memRead]
  | succ n ih =>
    have h1 := ih (off + 1)
    have h2 := (winByte w off).isLt
    rw [memRead_succ, Nat.pow_succ]
    omega

/-! ### The detector and the checksum -/

/-- The trigger looks at the length and at bytes 20 and 21 only (R85). -/
theorem trigger_iff (w : List Byte) :
    trigger w = true ↔ w.length = 22 ∧ winByte w 20 = 0xFF#8 ∧ winByte w 21 = 0xFF#8 := by
  simp [trigger, winFull, and_assoc]

/-- A window that is not full triggers nothing (R83, R85). -/
theorem trigger_of_length_ne (w : List Byte) (h : w.length ≠ 22) : trigger w = false := by
  simp [trigger, winFull, h]

/-- Each step of Fletcher-16 leaves both accumulators below 255. -/
theorem fletcherStep_lt (c : Nat × Nat) (b : Byte) : (fletcherStep c b).1 < 255 ∧ (fletcherStep c b).2 < 255 :=
  ⟨Nat.mod_lt _ (by decide), Nat.mod_lt _ (by decide)⟩

/-! ### Responses and outcomes -/

/-- A configured block runs the effect. -/
theorem requireConfigured_of_configured (s effect : State) (h : s.cfg.configured = true) :
    requireConfigured s effect = .next effect := by
  simp [requireConfigured, h]

/-- An unconfigured block answers ERR_UNCONFIGURED. -/
theorem requireConfigured_of_unconfigured (s effect : State) (h : s.cfg.configured = false) :
    requireConfigured s effect = .next (raise s .errUnconfigured) := by
  simp [requireConfigured, h]

/-- `requireConfigured` answers a next state, the effect's or the error's. -/
theorem requireConfigured_cases {s effect t : State} (h : requireConfigured s effect = .next t) :
    (s.cfg.configured = true ∧ t = effect) ∨ (s.cfg.configured = false ∧ t = raise s .errUnconfigured) := by
  unfold requireConfigured at h
  cases hc : s.cfg.configured <;> simp_all

@[simp] theorem mapNext_next (f : State → State) (s : State) : mapNext f (.next s) = .next (f s) := rfl

/-- Everything `mapNext` can answer as a next state. -/
theorem mapNext_cases {f : State → State} {o : Host.Outcome State Fault Refusal} {t : State}
    (h : mapNext f o = .next t) : ∃ s, o = .next s ∧ t = f s := by
  cases o with
  | next s => exact ⟨s, rfl, by simpa using h.symm⟩
  | fault r => cases h
  | refused r => cases h

/-- The three things one PUSH can do on a configured block (R86, R88). -/
theorem pushByte_cases (b : Byte) (t : DWord) (s : State) :
    (trigger (winPush s.win b) = true ∧ checksumOk (winPush s.win b) = true ∧
      pushByte b t s = { s with win := [], tel := commitDecode (winPush s.win b) s.cfg.poleCount t,
                                rsp := some ⟨.ok, 1#32⟩ }) ∨
    (trigger (winPush s.win b) = true ∧ checksumOk (winPush s.win b) = false ∧
      pushByte b t s = { s with win := winPush s.win b, rsp := some ⟨.ok, 0xFFFFFFFF#32⟩ }) ∨
    (trigger (winPush s.win b) = false ∧
      pushByte b t s = { s with win := winPush s.win b, rsp := some ⟨.ok, 0#32⟩ }) := by
  cases ht : trigger (winPush s.win b) <;> cases hc : checksumOk (winPush s.win b) <;>
    simp [pushByte, ht, hc, respond, winClear]

@[simp] theorem pushByte_cfg (b : Byte) (t : DWord) (s : State) : (pushByte b t s).cfg = s.cfg := by
  rcases pushByte_cases b t s with ⟨_, _, e⟩ | ⟨_, _, e⟩ | ⟨_, e⟩ <;> rw [e]
@[simp] theorem pushByte_port (b : Byte) (t : DWord) (s : State) : (pushByte b t s).port = s.port := by
  rcases pushByte_cases b t s with ⟨_, _, e⟩ | ⟨_, _, e⟩ | ⟨_, e⟩ <;> rw [e]
@[simp] theorem pushByte_inbox (b : Byte) (t : DWord) (s : State) : (pushByte b t s).inbox = s.inbox := by
  rcases pushByte_cases b t s with ⟨_, _, e⟩ | ⟨_, _, e⟩ | ⟨_, e⟩ <;> rw [e]

/-- A PUSH's window and response depend on the window and the byte only. -/
theorem pushByte_win_rsp_congr (b : Byte) (t t' : DWord) (s s' : State) (h : s'.win = s.win) :
    (pushByte b t' s').win = (pushByte b t s).win ∧ (pushByte b t' s').rsp = (pushByte b t s).rsp := by
  rcases pushByte_cases b t s with ⟨h1, h2, e⟩ | ⟨h1, h2, e⟩ | ⟨h1, e⟩ <;>
    rcases pushByte_cases b t' s' with ⟨h1', h2', e'⟩ | ⟨h1', h2', e'⟩ | ⟨h1', e'⟩ <;>
    rw [h] at * <;> simp_all

end Sys2Proof.Machine
end

