-- ==== Sys2Proof/Laws/Exec.lean ====
section
/-! SUPPORT. What a command, a word and a step can do, said once: later proofs take these apart instead of unfolding
`exec` or `step`. -/

namespace Sys2Proof.Machine

/-- Everything a command can do to the state: answer a response and change nothing else, or be a successful CONFIG, a
CLEAR or a PUSH on a configured block. -/
theorem exec_cases {i : Instr} {s t : State} (h : exec i s = .next t) :
    (t = { s with rsp := t.rsp }) ∨
    (∃ p, i = .config p ∧ p ≠ 0#8 ∧ t = respond (construct s p) 0#32) ∨
    (i = .clear ∧ s.cfg.configured = true ∧ t = { s with win := [], rsp := some ⟨.ok, 0#32⟩ }) ∨
    (∃ b, i = .push b ∧ s.cfg.configured = true ∧ t = pushByte b s.port.nowMs s) := by
  cases hc : s.cfg.configured <;> cases i <;>
    simp [exec, execConfig, execClear, execPush, execRdConfig, execRdVolts, execRdTempC, execRdAmps, execRdRpm,
      execRdThrottle, execRdPhaseAmps, execRdStatus, execRdUpdateTs, execRdValid, execIsStarted, execIsSaturated,
      execIsOvertemp, execIsOvervolt, execIsUndervolt, execStartErr, execBufRead, execBufCount, answer,
      requireConfigured, hc, sampledNow] at h
  all_goals (try (split at h))
  all_goals subst h
  all_goals first | exact .inl rfl | skip
  all_goals simp_all [winClear, respond]

/-- The same of a command word, by what it decodes to. -/
theorem runWord_cases {w : Word} {s t : State} (h : runWord w s = .next t) :
    (t = { s with rsp := t.rsp }) ∨
    (∃ p, decode w = .ok (.config p) ∧ p ≠ 0#8 ∧ t = respond (construct s p) 0#32) ∨
    (decode w = .ok .clear ∧ s.cfg.configured = true ∧ t = { s with win := [], rsp := some ⟨.ok, 0#32⟩ }) ∨
    (∃ b, decode w = .ok (.push b) ∧ s.cfg.configured = true ∧ t = pushByte b s.port.nowMs s) := by
  unfold runWord at h
  split at h
  · rename_i i hi
    rw [hi]
    rcases exec_cases h with h1 | ⟨p, rfl, h1⟩ | ⟨rfl, h1⟩ | ⟨b, rfl, h1⟩
    · exact .inl h1
    · exact .inr (.inl ⟨p, rfl, h1⟩)
    · exact .inr (.inr (.inl ⟨rfl, h1⟩))
    · exact .inr (.inr (.inr ⟨b, rfl, h1⟩))
  · cases h; exact .inl rfl

/-- Everything a step can do: reset; run the offered word and move on to the host's next lines; hold or take a response;
or only move on. -/
theorem step_cases {s t : State} (h : step s = .next t) :
    (s.port.rst = true ∧ t = resetEdge s) ∨
    (s.port.rst = false ∧ s.rsp = none ∧ s.port.cmdValid = true ∧
      ∃ u, runWord s.port.cmd s = .next u ∧ t = advancePort u) ∨
    (s.port.rst = false ∧ s.rsp = none ∧ s.port.cmdValid = false ∧ t = advancePort s) ∨
    (s.port.rst = false ∧ s.rsp ≠ none ∧ t = responseCycle s) := by
  unfold step portEvent commandCycle at h
  cases hr : s.port.rst <;> simp only [hr, if_true, Bool.false_eq_true, if_false] at h
  · cases hs : s.rsp <;> simp only [State.cmdReady, hs, Option.isNone_none, Option.isNone_some, if_true,
      Bool.false_eq_true, if_false] at h
    · cases hv : s.port.cmdValid <;> simp only [hv, if_true, Bool.false_eq_true, if_false] at h
      · cases h; exact .inr (.inr (.inl ⟨rfl, rfl, rfl, rfl⟩))
      · obtain ⟨u, hu, ht⟩ := mapNext_cases h
        exact .inr (.inl ⟨rfl, rfl, rfl, u, hu, ht⟩)
    · cases h; exact .inr (.inr (.inr ⟨rfl, by simp, rfl⟩))
  · cases h; exact .inl ⟨rfl, rfl⟩

/-- A meaning's response on an unconfigured block, where it needs a configured one. -/
theorem answer_of_configured (s : State) (v : DWord) (h : s.cfg.configured = true) :
    answer s v = .next { s with rsp := some ⟨.ok, v⟩ } := requireConfigured_of_configured s _ h

end Sys2Proof.Machine
end

