-- ==== Sys2Proof/Laws/Frames.lean ====
section
/-! SUPPORT. The terms of Safety.lean against the model's own operations, and one push of a stream. -/

namespace Sys2Proof.Safety

open Sys2Proof.Machine

/-- WinPush is the push claims speak of (R81). -/
theorem winPush_eq_pushed (w : List Byte) (b : Byte) : winPush w b = pushed w b := by
  simp [winPush, pushed]

theorem pushed_length (w : List Byte) (b : Byte) :
    (pushed w b).length = if w.length = 22 then 22 else w.length + 1 := by
  rw [← winPush_eq_pushed]; exact winPush_length w b

/-- A held byte, read either way. -/
theorem winByte_eq_iff (w : List Byte) (i : Nat) (h : i < w.length) (b : Byte) : winByte w i = b ↔ w[i]? = some b := by
  simp [winByte_of_lt w i h, h]

/-- The detector triggers exactly on a full window that ends in the stop marker (R85). -/
theorem trigger_iff_frameShaped (w : List Byte) : trigger w = true ↔ FrameShaped w := by
  rw [trigger_iff]
  constructor
  · rintro ⟨h, h1, h2⟩
    exact ⟨h, (winByte_eq_iff w 20 (by omega) _).1 h1, (winByte_eq_iff w 21 (by omega) _).1 h2⟩
  · rintro ⟨h, h1, h2⟩
    exact ⟨h, (winByte_eq_iff w 20 (by omega) _).2 h1, (winByte_eq_iff w 21 (by omega) _).2 h2⟩

theorem sumBytes_cons (b : Byte) (bs : List Byte) : sumBytes (b :: bs) = b.toNat + sumBytes bs := by
  simp [sumBytes]

theorem weightedSum_cons (b : Byte) (bs : List Byte) :
    weightedSum (b :: bs) = (bs.length + 1) * b.toNat + weightedSum bs := rfl

/-- What one PUSH of a stream leaves, on a configured block, in terms of PUSH itself. -/
theorem pushStep_eq (s : State) (p : Byte × DWord) (h : s.cfg.configured = true)
    (hd : decode (encode (.push p.1)) = .ok (.push p.1)) :
    (pushStep s p).cfg = s.cfg ∧ (pushStep s p).win = (pushByte p.1 p.2 s).win ∧
    responseData (pushStep s p) = responseData (pushByte p.1 p.2 s) := by
  have e : step (withNow (offerWord s (encode (.push p.1))) p.2) =
      .next (advancePort (pushByte p.1 p.2 (withNow (offerWord s (encode (.push p.1))) p.2))) := by
    simp [step, portEvent, commandCycle, withNow, State.cmdReady, runWord, hd, exec, execPush, requireConfigured, h,
      sampledNow]
  obtain ⟨k2, k3⟩ :=
    pushByte_win_rsp_congr p.1 p.2 p.2 s (withNow (offerWord s (encode (.push p.1))) p.2) rfl
  simp only [pushStep, afterStep, e, responseData, advancePort_cfg, advancePort_win, advancePort_rsp]
  exact ⟨by rw [pushByte_cfg]; rfl, k2, by rw [k3]⟩

end Sys2Proof.Safety
end

