-- ==== Sys2Proof/Laws/PerInstr.lean ====
section
/-! SUPPORT. A statement made of every command: its encoded word selects the row of 30_encoding.md R63 that stands for
its mnemonic. -/

namespace Sys2Proof.Laws

/-- The word of a command selects its own row. -/
def RowSelects.Statement (i : Instr) : Prop := (rowOf i).selects (encode i) = true

/-- A word selects a Format I row by its high byte alone. -/
theorem selects_of_opcode (op imm : Byte) :
    PatternRow.selects ⟨op ++ 0#8, 0xFF00#16⟩ (op ++ imm) = true := by
  have h : (op ++ imm) &&& (0xFF#8 ++ 0x00#8) = op ++ 0#8 := by
    rw [BitVec.and_append, BitVec.and_zero]
    exact congrArg (· ++ 0#8) (BitVec.and_allOnes : op &&& BitVec.allOnes 8 = op)
  exact beq_iff_eq.mpr h

theorem RowSelects.config (p : Byte) : RowSelects.Statement (.config p) := selects_of_opcode 0x01#8 p
theorem RowSelects.rdConfig : RowSelects.Statement .rdConfig := by unfold RowSelects.Statement; decide
theorem RowSelects.push (b : Byte) : RowSelects.Statement (.push b) := selects_of_opcode 0x03#8 b
theorem RowSelects.clear : RowSelects.Statement .clear := by unfold RowSelects.Statement; decide
theorem RowSelects.rdVolts : RowSelects.Statement .rdVolts := by unfold RowSelects.Statement; decide
theorem RowSelects.rdTempC : RowSelects.Statement .rdTempC := by unfold RowSelects.Statement; decide
theorem RowSelects.rdAmps : RowSelects.Statement .rdAmps := by unfold RowSelects.Statement; decide
theorem RowSelects.rdRpm : RowSelects.Statement .rdRpm := by unfold RowSelects.Statement; decide
theorem RowSelects.rdThrottle : RowSelects.Statement .rdThrottle := by unfold RowSelects.Statement; decide
theorem RowSelects.rdPhaseAmps : RowSelects.Statement .rdPhaseAmps := by unfold RowSelects.Statement; decide
theorem RowSelects.rdStatus : RowSelects.Statement .rdStatus := by unfold RowSelects.Statement; decide
theorem RowSelects.rdUpdateTs : RowSelects.Statement .rdUpdateTs := by unfold RowSelects.Statement; decide
theorem RowSelects.rdValid : RowSelects.Statement .rdValid := by unfold RowSelects.Statement; decide
theorem RowSelects.isStarted : RowSelects.Statement .isStarted := by unfold RowSelects.Statement; decide
theorem RowSelects.isSaturated : RowSelects.Statement .isSaturated := by unfold RowSelects.Statement; decide
theorem RowSelects.isOvertemp : RowSelects.Statement .isOvertemp := by unfold RowSelects.Statement; decide
theorem RowSelects.isOvervolt : RowSelects.Statement .isOvervolt := by unfold RowSelects.Statement; decide
theorem RowSelects.isUndervolt : RowSelects.Statement .isUndervolt := by unfold RowSelects.Statement; decide
theorem RowSelects.startErr : RowSelects.Statement .startErr := by unfold RowSelects.Statement; decide
theorem RowSelects.bufRead (i : Byte) : RowSelects.Statement (.bufRead i) := selects_of_opcode 0x30#8 i
theorem RowSelects.bufCount : RowSelects.Statement .bufCount := by unfold RowSelects.Statement; decide

end Sys2Proof.Laws
end

