-- ==== Sys2Proof/Laws/Rounding.lean ====
section
/-! SUPPORT. The small lemmas of the rounding functions (00_scope.md R8). -/

namespace Sys2Proof.Machine

/-! ### Rounding to an integer -/

/-- Rounding to the nearest integer is exact on a multiple. -/
theorem roundHalfEven_mul (q d : Nat) (h : 0 < d) : roundHalfEven (q * d) d = q := by
  simp [roundHalfEven, Nat.mul_div_cancel _ h, h]

/-- The rounded quotient is the floor or one more. -/
theorem roundHalfEven_bounds (n d : Nat) : n / d ≤ roundHalfEven n d ∧ roundHalfEven n d ≤ n / d + 1 := by
  have h : n / d % 2 < 2 := Nat.mod_lt _ (by decide)
  dsimp only [roundHalfEven]; split
  · omega
  · split <;> omega

/-- The rounded quotient is off by at most half, and by exactly half only where it is even. -/
theorem roundHalfEven_error (n d : Nat) (h : 0 < d) :
    2 * d * roundHalfEven n d ≤ 2 * n + d ∧ 2 * n ≤ 2 * d * roundHalfEven n d + d ∧
    ((2 * d * roundHalfEven n d = 2 * n + d ∨ 2 * n = 2 * d * roundHalfEven n d + d) →
      roundHalfEven n d % 2 = 0) := by
  have e : d * (n / d) + n % d = n := Nat.div_add_mod n d
  have hr : n % d < d := Nat.mod_lt n h
  dsimp only [roundHalfEven]
  generalize n % d = r at *
  generalize n / d = q at *
  split
  · have : 2 * d * q = 2 * (d * q) := by ring
    refine ⟨by omega, by omega, fun _ => by omega⟩
  · split
    · have : 2 * d * (q + 1) = 2 * (d * q) + 2 * d := by ring
      refine ⟨by omega, by omega, fun _ => by omega⟩
    · rcases Nat.mod_two_eq_zero_or_one q with h2 | h2
      · have : 2 * d * (q + q % 2) = 2 * (d * q) := by rw [h2]; ring
        refine ⟨by omega, by omega, fun _ => by omega⟩
      · have : 2 * d * (q + q % 2) = 2 * (d * q) + 2 * d := by rw [h2]; ring
        refine ⟨by omega, by omega, fun _ => by omega⟩

/-! ### Patterns and their values -/

/-- The magnitude of the pattern with exponent field `e` and fraction `f`. -/
theorem magUnits_ofNat (e f : Nat) (he : e < 256) (hf : f < 8388608) :
    magUnits (BitVec.ofNat 32 (e * 8388608 + f)) = if e = 0 then f else (8388608 + f) * 2 ^ (e - 1) := by
  have h1 : ((BitVec.ofNat 32 (e * 8388608 + f)).extractLsb' 23 8).toNat = e := by
    rw [BitVec.extractLsb'_toNat, BitVec.toNat_ofNat, Nat.shiftRight_eq_div_pow]
    norm_num only
    omega
  have h2 : ((BitVec.ofNat 32 (e * 8388608 + f)).extractLsb' 0 23).toNat = f := by
    rw [BitVec.extractLsb'_toNat, BitVec.toNat_ofNat, Nat.shiftRight_eq_div_pow]
    norm_num only
    omega
  unfold magUnits
  rw [h1, h2]
  norm_num

/-- The pattern that `rnMag` builds stands for `m * 2^k` units: the significand `m` counted in ulps of `2^k` units, a carry
to 2^24 = 16777216 included. -/
theorem magUnits_binade (k m : Nat) (hk : k < 254) (hm : m ≤ 16777216) (h : k = 0 ∨ 8388608 ≤ m) :
    magUnits (BitVec.ofNat 32 (k * 8388608 + m)) = m * 2 ^ k := by
  rcases Nat.lt_or_ge m 8388608 with h1 | h1
  · obtain rfl : k = 0 := by omega
    rw [magUnits_ofNat 0 m (by omega) h1]; simp
  · rcases Nat.lt_or_ge m 16777216 with h2 | h2
    · obtain ⟨f, rfl⟩ : ∃ f, m = 8388608 + f := ⟨m - 8388608, by omega⟩
      rw [show k * 8388608 + (8388608 + f) = (k + 1) * 8388608 + f by ring,
        magUnits_ofNat (k + 1) f (by omega) (by omega), if_neg (by omega), Nat.add_sub_cancel]
    · obtain rfl : m = 16777216 := by omega
      rw [show k * 8388608 + 16777216 = (k + 2) * 8388608 + 0 by ring,
        magUnits_ofNat (k + 2) 0 (by omega) (by omega), if_neg (by omega)]
      rw [show k + 2 - 1 = k + 1 by omega, Nat.pow_succ]; ring

/-! ### Values at the ends of the domains -/

/-- Zero rounds to +0.0 (R8). -/
theorem rn32_zero (den : Nat) : rn32 0 den = 0#32 := by
  simp [rn32, rnMag, roundHalfEven]

/-- TEMP_LUT at the codes outside the formula's domain (R137). -/
theorem tempLut_of_out_of_domain (c : Word) (h : c = 0#16 ∨ 4096 ≤ c.toNat) : tempLut c = 0#32 :=
  if_pos h

end Sys2Proof.Machine
end

