-- ==== Sys2Proof/Tests/Slice0.lean ====
section
/-! SUPPORT. Tests of the model against the spec's own vectors (95_test_vectors.md) and rules, and, for every obligation
with hypotheses, a concrete state and operands that meet them. -/

namespace Sys2Proof.Tests

open Sys2Proof.Machine Sys2Proof.Safety

/-! ### Helpers -/

/-- A configured block with the given pole count and window. -/
def ready (pole : Byte) (win : List Byte) : State := { State.reset with cfg := ⟨true, pole⟩, win := win }

/-- The next state of an outcome. -/
def nextOf : Host.Outcome State Fault Refusal → State
  | .next t => t
  | _ => State.reset

/-- The response a command answers with. -/
def rspOf (i : Instr) (s : State) : Option Response := (nextOf (exec i s)).rsp

/-- The state with a word offered to a block that can accept it. -/
def offering (s : State) (w : Word) : State := offerWord s w

/-- V1's 22 bytes (95_test_vectors.md, frames). -/
def v1 : List Byte :=
  [0xE8#8, 0x03#8, 0x00#8, 0x08#8, 0x7D#8, 0x00#8, 0x00#8, 0x00#8, 0x68#8, 0x10#8, 0x00#8, 0x00#8, 0x88#8, 0x13#8,
   0x88#8, 0x13#8, 0x01#8, 0x00#8, 0x22#8, 0x7D#8, 0xFF#8, 0xFF#8]

/-- V13: V1 with byte 18 changed to 0x23. -/
def v13 : List Byte := v1.set 18 0x23#8

/-- V3: 18 data bytes 0xFF, checksum 00 00. -/
def v3 : List Byte := List.replicate 18 0xFF#8 ++ [0x00#8, 0x00#8, 0xFF#8, 0xFF#8]

/-- A block with V1 but its last byte, `now_ms` at 5000. -/
def beforeV1 : State := withNow (ready 7#8 (v1.take 21)) 5000#32

/-- The state after V1 (P1). -/
def afterV1 : State := nextOf (exec (.push 0xFF#8) beforeV1)

/-! ### Decoding: the words of 30_encoding.md R63, bit by bit -/

theorem test_decode_config : decode 0b0000000100000111#16 = .ok (.config 7#8) := by decide
theorem test_decode_rdConfig : decode 0b0000001000000000#16 = .ok .rdConfig := by decide
theorem test_decode_push : decode 0b0000001111101000#16 = .ok (.push 0xE8#8) := by decide
theorem test_decode_clear : decode 0b0000010000000000#16 = .ok .clear := by decide
theorem test_decode_rdVolts : decode 0b0001000000000000#16 = .ok .rdVolts := by decide
theorem test_decode_rdTempC : decode 0b0001000100000000#16 = .ok .rdTempC := by decide
theorem test_decode_rdAmps : decode 0b0001001000000000#16 = .ok .rdAmps := by decide
theorem test_decode_rdRpm : decode 0b0001001100000000#16 = .ok .rdRpm := by decide
theorem test_decode_rdThrottle : decode 0b0001010000000000#16 = .ok .rdThrottle := by decide
theorem test_decode_rdPhaseAmps : decode 0b0001010100000000#16 = .ok .rdPhaseAmps := by decide
theorem test_decode_rdStatus : decode 0b0001011000000000#16 = .ok .rdStatus := by decide
theorem test_decode_rdUpdateTs : decode 0b0001011100000000#16 = .ok .rdUpdateTs := by decide
theorem test_decode_rdValid : decode 0b0001100000000000#16 = .ok .rdValid := by decide
theorem test_decode_isStarted : decode 0b0010000000000000#16 = .ok .isStarted := by decide
theorem test_decode_isSaturated : decode 0b0010000100000000#16 = .ok .isSaturated := by decide
theorem test_decode_isOvertemp : decode 0b0010001000000000#16 = .ok .isOvertemp := by decide
theorem test_decode_isOvervolt : decode 0b0010001100000000#16 = .ok .isOvervolt := by decide
theorem test_decode_isUndervolt : decode 0b0010010000000000#16 = .ok .isUndervolt := by decide
theorem test_decode_startErr : decode 0b0010010100000000#16 = .ok .startErr := by decide
theorem test_decode_bufRead : decode 0b0011000000010101#16 = .ok (.bufRead 21#8) := by decide
theorem test_decode_bufCount : decode 0b0011000100000000#16 = .ok .bufCount := by decide

/-- The illegal words of family 30. -/
theorem test_decode_unassigned :
    [0x0000#16, 0x0500#16, 0x0F00#16, 0x1900#16, 0x2600#16, 0x2700#16, 0x3200#16, 0xFFFF#16].map decode =
      List.replicate 8 (.error .unassignedOpcode) := by decide

theorem test_decode_reserved_operand :
    [0x0201#16, 0x0401#16, 0x1001#16, 0x3101#16].map decode = List.replicate 4 (.error .reservedOperand) := by decide

theorem test_decodeTableWord : decodeTableWord 16 0x3015 = some (.bufRead 21#8) ∧ decodeTableWord 16 0x1001 = none := by
  decide

/-! ### Well-formedness: an ill-formed word or line for each check -/

/-- No row has the high byte 0x26. -/
theorem test_legalWord_refuses_opcode : legalWord 0x2600#16 = false := by decide

/-- RD_VOLTS's row wants a zero low byte. -/
theorem test_legalWord_refuses_operand : legalWord 0x1001#16 = false := by decide

theorem test_legalWord_accepts : legalWord 0x30FF#16 = true ∧ legalWord 0x3100#16 = true := by decide

/-- R68's example: `PUSH 0xE8` is 0x03E8. -/
theorem test_assemble_push : assembleLine "PUSH 0xE8 @t=500 ; a byte".toList = .ok [⟨0x03E8#16, 500#32⟩] := by decide

/-- The assembly errors of R68, one line each. -/
theorem test_assemble_refuses :
    ["BUF_READ 256".toList, "RD_VOLTS 1".toList, "PUSH".toList, "HALT".toList, "PUSH zz".toList,
      "CLEAR @t=1".toList].map assembleLine =
    [.error .operandRange, .error .operandUnexpected, .error .operandMissing, .error .unknownMnemonic,
      .error .badNumber, .error .badAnnotation] := by decide

/-- R69's example of MKFRAME is V1. -/
theorem test_mkframe_v1 :
    assembleLine "MKFRAME 1000, 2048, 125, 4200, 5000, 5000, 1".toList = .ok (feed 0#32 v1) := by decide

theorem test_rd_flag : assembleLine "RD_FLAG 5".toList = .ok [⟨0x2500#16, 0#32⟩] := by decide

/-! ### The checksum: family 41's table -/

theorem test_fletcher_vectors :
    fletcher16 (List.replicate 18 0xFF#8) = (0, 0) ∧
    fletcher16 ((List.range 18).map (fun i => BitVec.ofNat 8 (i + 1))) = (171, 120) ∧
    fletcher16 (List.replicate 18 0x80#8) = (9, 213) ∧
    fletcher16 (0x01#8 :: List.replicate 17 0x00#8) = (1, 18) := by decide

/-- V1's data, with byte 2 at 0xFF (undetected), with bytes 0 and 1 swapped (detected). -/
theorem test_fletcher_v1 :
    fletcher16 (v1.take 18) = (34, 125) ∧ fletcher16 ((v1.take 18).set 2 0xFF#8) = (34, 125) ∧
    fletcher16 (((v1.take 18).set 0 0x03#8).set 1 0xE8#8) = (34, 151) := by decide

/-! ### Conversions: family 42's tables -/

theorem test_volts : [0, 1, 3, 100, 1000, 1234, 65535].map voltsOf =
    [0x00000000#32, 0x3C23D70A#32, 0x3CF5C28F#32, 0x3F800000#32, 0x41200000#32, 0x414570A4#32, 0x4423D666#32] := by
  decide

theorem test_amps : [0, 1, -1, 125, -125, 1000, 32767, -32768].map ampsOf =
    [0x00000000#32, 0x3DA3D70A#32, 0xBDA3D70A#32, 0x41200000#32, 0xC1200000#32, 0x42A00000#32, 0x4523D5C3#32,
     0xC523D70A#32] := by decide

theorem test_throttle : [0, 1, 5000, 10000, 12345, 65535].map throttleOf =
    [0x00000000#32, 0x38D1B717#32, 0x3F000000#32, 0x3F800000#32, 0x3F9E0419#32, 0x40D1B646#32] := by decide

/-- D-PH-1 to D-PH-7. -/
theorem test_phase_amps_ends :
    [phaseAmpsOf (ampsOf 125) 0, phaseAmpsOf (ampsOf 0) 5000, phaseAmpsOf (ampsOf 125) 5000,
     phaseAmpsOf (ampsOf (-125)) 5000, phaseAmpsOf (ampsOf 1) 1, phaseAmpsOf (ampsOf 32767) 1,
     phaseAmpsOf (ampsOf (-32768)) 1] =
    [0x00000000#32, 0x00000000#32, 0x41A00000#32, 0xC1A00000#32, 0x44480000#32, 0x4BC7FE71#32, 0xCBC80000#32] := by
  decide

/-- D-PH-8 to D-PH-13. -/
theorem test_phase_amps_rounding :
    [phaseAmpsOf (ampsOf 125) 65535, phaseAmpsOf (ampsOf 125) 3, phaseAmpsOf (ampsOf 1) 65535,
     phaseAmpsOf (ampsOf (-1)) 65535, phaseAmpsOf (ampsOf 125) 10000, phaseAmpsOf (ampsOf 1000) 7] =
    [0x3FC350C3#32, 0x47023555#32, 0x3C4800C8#32, 0xBC4800C8#32, 0x41200000#32, 0x47DF36DB#32] := by decide

theorem test_rpm : [rpmOf 4201#32 7#8, rpmOf 6#32 7#8, rpmOf 0xFFFFFFFF#32 7#8, rpmOf 0xFFFFFFFF#32 255#8] =
    [600#32, 0#32, 0x24924924#32, 0x01010101#32] := by decide

theorem test_temp_lut_ends : [tempLut 0#16, tempLut 4096#16, tempLut 65535#16] = [0#32, 0#32, 0#32] := by decide

/-- A tie, rounded to the even significand both ways: 2^24 + 1 and 2^24 + 3. -/
theorem test_rn32_ties : rn32 16777217 1 = 0x4B800000#32 ∧ rn32 16777219 1 = 0x4B800002#32 := by decide

/-- Subnormals are kept: half the smallest one rounds to +0.0, one and a half of it to two (R8). -/
theorem test_rn32_subnormal : rn32 1 (2 ^ 150) = 0#32 ∧ rn32 3 (2 ^ 150) = 2#32 := by decide

/-- The values of the §8 scenario's patterns: 20.0, -10.0 and 0.5, in units of 2^-149. -/
theorem test_val32 : units32 0x41A00000#32 = 20 * 2 ^ 149 ∧ units32 0xC1200000#32 = -10 * 2 ^ 149 ∧
    2 * units32 0x3F000000#32 = 2 ^ 149 := by decide

/-! ### Commands: families 40, 42, 43, 44 and 60 -/

/-- C-3: `CONFIG 7` then RD_CONFIG is 0x107; C-4: CONFIG 0 keeps it. -/
theorem test_config :
    rspOf .rdConfig (nextOf (exec (.config 7#8) State.reset)) = some ⟨.ok, 0x107#32⟩ ∧
    nextOf (exec (.config 0#8) (ready 7#8 [])) = raise (ready 7#8 []) .errBadConfig := by decide

/-- C-1: RD_CONFIG after reset. -/
theorem test_rd_config_reset : rspOf .rdConfig State.reset = some ⟨.ok, 0#32⟩ := by decide

/-- P1: the 22nd byte of V1 answers 1 and empties the window. -/
theorem test_push_success : afterV1.rsp = some ⟨.ok, 1#32⟩ ∧ afterV1.win = [] := by decide

/-- W-2: the 23rd byte evicts the oldest. -/
theorem test_push_evicts :
    (nextOf (exec (.push 0x17#8) (ready 1#8 ((List.range 22).map (fun i => BitVec.ofNat 8 (i + 1)))))).win =
      (List.range 22).map (fun i => BitVec.ofNat 8 (i + 2)) := by decide

/-- W-10: V13's last byte answers -1 and keeps the window. -/
theorem test_push_failure :
    rspOf (.push 0xFF#8) (ready 7#8 (v13.take 21)) = some ⟨.ok, 0xFFFFFFFF#32⟩ ∧
    (nextOf (exec (.push 0xFF#8) (ready 7#8 (v13.take 21)))).win = v13 := by decide

/-- P1's reads after V1. -/
theorem test_rdVolts : rspOf .rdVolts afterV1 = some ⟨.ok, 0x41200000#32⟩ := by decide
theorem test_rdAmps : rspOf .rdAmps afterV1 = some ⟨.ok, 0x41200000#32⟩ := by decide
theorem test_rdRpm : rspOf .rdRpm afterV1 = some ⟨.ok, 600#32⟩ := by decide
theorem test_rdThrottle : rspOf .rdThrottle afterV1 = some ⟨.ok, 0x3F000000#32⟩ := by decide
theorem test_rdPhaseAmps : rspOf .rdPhaseAmps afterV1 = some ⟨.ok, 0x41A00000#32⟩ := by decide
theorem test_rdStatus : rspOf .rdStatus afterV1 = some ⟨.ok, 0x00000001#32⟩ := by decide
theorem test_rdUpdateTs : rspOf .rdUpdateTs afterV1 = some ⟨.ok, 0x00001388#32⟩ := by decide
theorem test_rdValid : rspOf .rdValid afterV1 = some ⟨.ok, 1#32⟩ ∧ rspOf .rdValid (ready 7#8 []) = some ⟨.ok, 0#32⟩ := by
  decide

/-- RD_TEMPC answers with the table's entry for V1's code 2048. -/
theorem test_rdTempC : rspOf .rdTempC afterV1 = some ⟨.ok, tempLut 2048#16⟩ := rfl

/-- V3 with pole count 1 (P6): every register at the far end of its range. -/
theorem test_push_v3 :
    (let t := (nextOf (exec (.push 0xFF#8) (ready 1#8 (v3.take 21)))).tel
     [t.volts, t.tempC, t.amps, t.rpm, t.throttle, t.phaseAmps]) =
    [0x4423D666#32, 0x00000000#32, 0xBDA3D70A#32, 0xFFFFFFFF#32, 0x40D1B646#32, 0xBC4800C8#32] := by decide

/-- The status 0x2A row of family 43: bits 1, 3 and 5. -/
theorem test_flags_2a :
    [Instr.isStarted, .isSaturated, .isOvertemp, .isOvervolt, .isUndervolt, .startErr].map
      (fun i => rspOf i { ready 1#8 [] with tel := { Tel.reset with status := 0x2A#8 } }) =
    [some ⟨.ok, 0#32⟩, some ⟨.ok, 1#32⟩, some ⟨.ok, 0#32⟩, some ⟨.ok, 1#32⟩, some ⟨.ok, 0#32⟩, some ⟨.ok, 1#32⟩] := by
  decide

/-- The status 0xC0 row: no flag, all eight bits in RD_STATUS. -/
theorem test_flags_c0 :
    [Instr.isStarted, .isSaturated, .isOvertemp, .isOvervolt, .isUndervolt, .startErr, .rdStatus].map
      (fun i => rspOf i { ready 1#8 [] with tel := { Tel.reset with status := 0xC0#8 } }) =
    List.replicate 6 (some ⟨.ok, 0#32⟩) ++ [some ⟨.ok, 0xC0#32⟩] := by decide

/-- W-7: CLEAR, and BUF_COUNT before and after. -/
theorem test_clear :
    rspOf .bufCount (ready 1#8 v13) = some ⟨.ok, 0x116#32⟩ ∧
    rspOf .bufCount (nextOf (exec .clear (ready 1#8 v13))) = some ⟨.ok, 0#32⟩ := by decide

/-- W-1: BUF_READ 0, 2 and 3 of three bytes. -/
theorem test_buf_read :
    [0#8, 2#8, 3#8].map (fun i => rspOf (.bufRead i) (ready 1#8 [0x11#8, 0x22#8, 0x33#8])) =
      [some ⟨.ok, 0x11#32⟩, some ⟨.ok, 0x33#32⟩, some ⟨.errRange, 0#32⟩] := by decide

/-- W-1: BUF_COUNT of three bytes. -/
theorem test_buf_count : rspOf .bufCount (ready 1#8 [0x11#8, 0x22#8, 0x33#8]) = some ⟨.ok, 3#32⟩ := by decide

/-- E-1 to E-4 and E-7, through a step: one offered word each, from reset. -/
theorem test_error_priority :
    [0x03E8#16, 0x1001#16, 0x301E#16, 0x0100#16, 0x0000#16].map (fun w => (afterStep (offering State.reset w)).rsp) =
      [some ⟨.errUnconfigured, 0#32⟩, some ⟨.errIllegal, 0#32⟩, some ⟨.errUnconfigured, 0#32⟩,
       some ⟨.errBadConfig, 0#32⟩, some ⟨.errIllegal, 0#32⟩] := by decide

/-- The first step after reset runs the word placed for it. -/
theorem test_withFetchWord : (afterStep (State.reset.withFetchWord 16 0x0107)).cfg = ⟨true, 7#8⟩ := by decide

/-- R-2: a reset edge undoes everything. -/
theorem test_reset_edge :
    afterStep { afterV1 with port := { PortIn.quiet with rst := true } } = State.reset := by decide

/-- The ring of R29 after 22 pushes and one more holds the last 22 bytes. -/
theorem test_ring_wraps :
    ringWin (ringPush ⟨(List.range 22).map (BitVec.ofNat 8), 0, 22⟩ 99#8) =
      (List.range 21).map (fun i => BitVec.ofNat 8 (i + 1)) ++ [99#8] := by decide

/-! ### Witnesses: what meets each obligation's hypotheses -/

theorem witness_reset_edge : ({ afterV1 with port := { PortIn.quiet with rst := true } } : State).port.rst = true := by
  decide

/-- A configured block in the middle of a frame meets the invariant, and a step from it answers. -/
theorem witness_invariant :
    Inv (offering (ready 7#8 (v1.take 21)) 0x03FF#16) ∧
    step (offering (ready 7#8 (v1.take 21)) 0x3100#16) =
      .next { ready 7#8 (v1.take 21) with rsp := some ⟨.ok, 21#32⟩ } := ⟨by decide, rfl⟩

theorem witness_offered :
    let s := offering (ready 7#8 v13) 0x0400#16
    s.port.rst = false ∧ s.port.cmdValid = true ∧ s.cmdReady = true ∧ decode s.port.cmd = .ok .clear ∧
      exec .clear s = .next { s with win := [], rsp := some ⟨.ok, 0#32⟩ } :=
  ⟨rfl, rfl, rfl, by decide, rfl⟩

theorem witness_idle : State.reset.port.rst = false ∧ State.reset.port.cmdValid = false ∧ State.reset.rsp = none := by
  decide

theorem witness_outstanding :
    (afterV1.port.rst = false ∧ afterV1.rsp = some ⟨.ok, 1#32⟩ ∧ afterV1.port.rspReady = false) ∧
    (let s := { afterV1 with port := { PortIn.quiet with rspReady := true } }
     s.port.rst = false ∧ s.rsp = some ⟨.ok, 1#32⟩ ∧ s.port.rspReady = true) := by decide

theorem witness_decode_boundaries :
    decode 0x0100#16 = .ok (.config 0#8) ∧ decode 0x03FF#16 = .ok (.push 255#8) ∧ legalWord 0x3100#16 = true ∧
    (⟨0x3100#16, 0xFFFF#16⟩ : PatternRow) ∈ patternTable ∧
    PatternRow.selects ⟨0x3100#16, 0xFFFF#16⟩ 0x3100#16 = true := by decide

theorem witness_unselected :
    let s := offering State.reset 0x0401#16
    s.port.rst = false ∧ s.port.cmdValid = true ∧ s.rsp = none ∧ legalWord s.port.cmd = false := by decide

theorem witness_unconfigured :
    (∀ p, Instr.clear ≠ .config p) ∧ Instr.clear ≠ .rdConfig ∧ State.reset.cfg.configured = false :=
  ⟨fun _ h => (nomatch h), by decide, rfl⟩

theorem witness_error :
    runWord 0x0100#16 State.reset = .next (raise State.reset .errBadConfig) ∧
    (raise State.reset .errBadConfig).rsp = some ⟨.errBadConfig, 0#32⟩ ∧ RspStatus.errBadConfig ≠ .ok :=
  ⟨rfl, rfl, by decide⟩

theorem witness_config_boundaries : (1#8 : Byte) ≠ 0#8 ∧ (255#8 : Byte) ≠ 0#8 := by decide

theorem witness_config_writes :
    runWord 0x0107#16 State.reset = .next (respond (construct State.reset 7#8) 0#32) ∧
    (respond (construct State.reset 7#8) 0#32).cfg ≠ State.reset.cfg := ⟨rfl, by decide⟩

theorem witness_configured : (ready 1#8 []).cfg.configured = true ∧ (ready 255#8 v13).cfg.configured = true := by decide

/-- BUF_READ at the newest byte held, and one past it. -/
theorem witness_buf_read_boundary :
    (ready 1#8 v13).cfg.configured = true ∧ (ready 1#8 v13).win[(21#8 : Byte).toNat]? = some 0xFF#8 ∧ (ready 1#8 v13).win.length ≤ (22#8 : Byte).toNat ∧
    (ready 1#8 []).win.length ≤ (0#8 : Byte).toNat := by decide

/-- Configured blocks with windows within their capacity, empty and full. -/
theorem witness_window_wf :
    ((ready 1#8 []).cfg.configured = true ∧ Memory.wf (ready 1#8 []).win) ∧
    ((ready 1#8 v13).cfg.configured = true ∧ Memory.wf (ready 1#8 v13).win) := by decide

/-- Pushes that do not trigger: into an empty window, one short of full, and a full one without the stop marker. -/
theorem witness_push_no_trigger :
    ((ready 1#8 []).cfg.configured = true ∧ ¬ FrameShaped (pushed (ready 1#8 []).win 0xFF#8)) ∧
    ¬ FrameShaped (pushed (ready 1#8 (List.replicate 20 0xFF#8)).win 0xFF#8) ∧
    ¬ FrameShaped (pushed (ready 1#8 (List.replicate 22 0xFF#8)).win 0x00#8) := by decide

/-- A failing push: V13's last byte, and one more 0xFF in a stream of them (W-5). -/
theorem witness_push_failure :
    ((ready 1#8 (v13.take 21)).cfg.configured = true ∧ FrameShaped (pushed (ready 1#8 (v13.take 21)).win 0xFF#8) ∧
      ¬ ChecksumMatches (pushed (ready 1#8 (v13.take 21)).win 0xFF#8)) ∧
    (FrameShaped (pushed (List.replicate 22 0xFF#8) 0xFF#8) ∧
      ¬ ChecksumMatches (pushed (List.replicate 22 0xFF#8) 0xFF#8)) := by decide

theorem witness_push_valid :
    beforeV1.cfg.configured = true ∧ beforeV1.cfg.poleCount ≠ 0#8 ∧ ValidFrame (pushed beforeV1.win 0xFF#8) := by decide

theorem witness_false_frame :
    (ready 1#8 (List.replicate 20 0#8 ++ [0xFF#8])).cfg.configured = true ∧
    (ready 1#8 (List.replicate 20 0#8 ++ [0xFF#8])).win = List.replicate 20 0#8 ++ [0xFF#8] := ⟨rfl, rfl⟩

/-- The cache changes by a decode and by a CONFIG. -/
theorem witness_cache_changes :
    (runWord 0x03FF#16 beforeV1 = .next afterV1 ∧ afterV1.tel ≠ beforeV1.tel) ∧
    (runWord 0x0107#16 afterV1 = .next (respond (construct afterV1 7#8) 0#32) ∧
      (respond (construct afterV1 7#8) 0#32).tel ≠ afterV1.tel) :=
  ⟨⟨rfl, fun h => absurd (congrArg Tel.valid h) (by decide)⟩, rfl, fun h => absurd (congrArg Tel.valid h) (by decide)⟩

/-- The window changes by PUSH, CLEAR and CONFIG. -/
theorem witness_window_changes :
    (runWord 0x03FF#16 (ready 1#8 []) = .next (respond (ready 1#8 [0xFF#8]) 0#32) ∧ [0xFF#8] ≠ (ready 1#8 []).win) ∧
    (runWord 0x0400#16 (ready 1#8 v13) = .next (respond (ready 1#8 []) 0#32) ∧ [] ≠ (ready 1#8 v13).win) ∧
    (runWord 0x0101#16 (ready 1#8 v13) = .next (respond (ready 1#8 []) 0#32) ∧ [] ≠ (ready 1#8 v13).win) :=
  ⟨⟨rfl, by decide⟩, ⟨rfl, by decide⟩, rfl, by decide⟩

/-- Two runs of a decoding PUSH that differ in the millisecond input store different timestamps. -/
theorem witness_now_ms :
    (nextOf (exec (.push 0xFF#8) (withNow beforeV1 1#32))).tel.updateTs ≠
      (nextOf (exec (.push 0xFF#8) (withNow beforeV1 2#32))).tel.updateTs ∧
    exec (.push 0xFF#8) (withNow beforeV1 1#32) = .next (nextOf (exec (.push 0xFF#8) (withNow beforeV1 1#32))) ∧
    exec (.push 0xFF#8) (withNow beforeV1 2#32) = .next (nextOf (exec (.push 0xFF#8) (withNow beforeV1 2#32))) :=
  ⟨by decide, rfl, rfl⟩

theorem witness_flag_query :
    Instr.startErr ∈ [Instr.isStarted, .isSaturated, .isOvertemp, .isOvervolt, .isUndervolt, .startErr] ∧
    exec .startErr { ready 1#8 [] with tel := { Tel.reset with status := 0xFF#8 } } =
      .next (respond { ready 1#8 [] with tel := { Tel.reset with status := 0xFF#8 } } 1#32) ∧
    exec .startErr { ready 1#8 [] with tel := { Tel.reset with status := 0xFF#8 &&& 0x3F#8 } } =
      .next (respond { ready 1#8 [] with tel := { Tel.reset with status := 0xFF#8 &&& 0x3F#8 } } 1#32) :=
  ⟨by decide, rfl, rfl⟩

theorem witness_reads :
    readsOnly .bufCount = true ∧ exec .bufCount (ready 1#8 []) = .next (respond (ready 1#8 []) 0#32) ∧
    exec .bufCount (respond (ready 1#8 []) 0#32) = .next (respond (ready 1#8 []) 0#32) := ⟨rfl, rfl, rfl⟩

/-- Windows with 0xFF at either checksum byte. -/
theorem witness_ff_checksum :
    (v1.set 18 0xFF#8).length = 22 ∧ (v1.set 18 0xFF#8)[18]? = some 0xFF#8 ∧ (v1.set 19 0xFF#8)[19]? = some 0xFF#8 := by
  decide

/-- A data byte at each end of the data, and the two pairs the law names. -/
theorem witness_single_byte :
    (v1.take 18).length = 18 ∧ (v1.take 18)[0]? = some 0xE8#8 ∧ (v1.take 18)[17]? = some 0x00#8 ∧
    (v3.take 18)[0]? = some 0xFF#8 := by decide

theorem witness_swap :
    (v1.take 18).length = 18 ∧ 0 < 17 ∧ (v1.take 18)[0]? = some 0xE8#8 ∧ (v1.take 18)[17]? = some 0x00#8 ∧ v1.length = 22 ∧
    v1[18]? = some 0x22#8 ∧ v1[19]? = some 0x7D#8 ∧ checksumOk v1 = true := by decide

theorem witness_rounding : 0 < 3 ∧ (1 : Int).natAbs ≤ (2 ^ 24 - 1) * 2 ^ 104 * 3 :=
  ⟨by decide, Nat.le_of_ble_eq_true rfl⟩

theorem witness_conversions :
    (255#8 : Byte) ≠ 0#8 ∧ (0 < (1 : Int) ∧ (32768 : Int) ≤ 32768) ∧
    (-32768 ≤ (-32768 : Int) ∧ (-32768 : Int) ≤ 32767 ∧ 65535 < 65536) ∧ (17 ∈ [6, 7, 17] ∧ v1.length = 22) := by decide

/-- A stream that no push of returns 1, and its start. -/
theorem witness_tail_of_stream :
    (ready 1#8 v13).cfg.configured = true ∧ Memory.wf (ready 1#8 v13).win ∧ (∀ c ∈ pushCodes (ready 1#8 v13) [(0xFF#8, 0#32)], c ≠ 1#32) := by
  refine ⟨by decide, by decide, ?_⟩
  simp only [pushCodes, List.mem_singleton, forall_eq]
  decide

theorem witness_frame_stream :
    (ready 1#8 v13).cfg.configured = true ∧ Memory.wf (ready 1#8 v13).win ∧
    ValidFrame ((v1.map (fun b => (b, 7#32))).map Prod.fst) := by decide

theorem witness_after_failure :
    (ready 1#8 v13).cfg.configured = true ∧ (ready 1#8 v13).win.length = 22 ∧ responseData (pushStep (ready 1#8 v13) (0xFF#8, 0#32)) ≠ 1#32 := by decide

theorem witness_after_success :
    beforeV1.cfg.configured = true ∧ responseData (pushStep beforeV1 (0xFF#8, 9#32)) = 1#32 ∧ [((0#8 : Byte), (0#32 : DWord))].length ≤ 21 := by decide

theorem witness_ring :
    ringWf ⟨v1, 21, 22⟩ ∧ ringWf (ringReset v1) ∧ v1.length = 22 := by decide

theorem witness_assembler :
    ("CLEAR".toList, Format.n, 0x04#8) ∈ mnemonicTable ∧ ("PUSH".toList, Format.i, 0x03#8) ∈ mnemonicTable ∧
    255 < 256 := by decide

/-! ### Witnesses over the reals -/

/-- The vector parameters of 95_test_vectors.md §T0, which are not the hardware's. -/
noncomputable def t0 : Thermistor :=
  ⟨10000, 10000, 3950, 25, by norm_num, by norm_num, by norm_num, by norm_num⟩

theorem witness_nominal : t0.rSeries = t0.rNominal ∧ 0 ≤ t0.tNominalC ∧ t0.tNominalC ≤ 200 := by
  refine ⟨rfl, ?_, ?_⟩ <;> norm_num [t0]

theorem witness_not_increasing :
    (2048#16 : Word) ≠ 0#16 ∧ (2048#16 : Word).toNat ≤ (4095#16 : Word).toNat ∧ (4095#16 : Word).toNat < 4096 ∧
    0 < tempInv t0 (2048#16 : Word).toNat := by
  refine ⟨by decide, by decide, by decide, ?_⟩
  norm_num [tempInv, t0]

/-- A thermistor so hot that every code of the formula's domain clamps to 200. -/
noncomputable def hot : Thermistor :=
  ⟨1, 1, 1000000000000, 1000000, by norm_num, by norm_num, by norm_num, by norm_num⟩

/-- The table of that thermistor: 200.0 inside the domain, 0 outside. -/
def hotLut (c : Word) : DWord := if c = 0#16 ∨ 4096 ≤ c.toNat then 0#32 else 0x43480000#32

theorem hot_inv_bounds (c : ℝ) (h0 : 1 ≤ c) (h1 : c ≤ 4095) : 0 < tempInv hot c ∧ tempInv hot c ≤ 1 / 500 := by
  have hx : 4096 / c - 1 = (4096 - c) / c := by field_simp
  have hr : hot.rSeries / (4096 / c - 1) / hot.rNominal = c / (4096 - c) := by
    rw [hx]; simp [hot]
  have hpos : 0 < c / (4096 - c) := div_pos (by linarith) (by linarith)
  have hup : c / (4096 - c) ≤ 4095 := by rw [div_le_iff₀ (by linarith)]; nlinarith
  have hlow : (c / (4096 - c))⁻¹ ≤ 4095 := by rw [inv_div, div_le_iff₀ (by linarith)]; nlinarith
  have l1 : Real.log (c / (4096 - c)) ≤ 4095 := (Real.log_le_sub_one_of_pos hpos).trans (by linarith)
  have l2 : -4095 ≤ Real.log (c / (4096 - c)) := by
    have := Real.log_le_sub_one_of_pos (inv_pos.2 hpos)
    rw [Real.log_inv] at this; linarith
  have e : tempInv hot c = Real.log (c / (4096 - c)) / 1000000000000 + 1 / 1000273.15 := by
    unfold tempInv; dsimp only; rw [hr]; norm_num [hot]
  rw [e]
  constructor
  · have : -4095 / 1000000000000 ≤ Real.log (c / (4096 - c)) / 1000000000000 :=
      div_le_div_of_nonneg_right l2 (by norm_num)
    have h3 : (0 : ℝ) < -4095 / 1000000000000 + 1 / 1000273.15 := by norm_num
    linarith
  · have : Real.log (c / (4096 - c)) / 1000000000000 ≤ 4095 / 1000000000000 :=
      div_le_div_of_nonneg_right l1 (by norm_num)
    have h3 : (4095 : ℝ) / 1000000000000 + 1 / 1000273.15 ≤ 1 / 500 := by norm_num
    linarith

/-- A pattern is the rounding of its own value. -/
theorem isRn32_self (p : DWord) (hf : isFinite32 p = true) (hs : p.msb = false) : IsRn32 (val32 p : ℝ) p := by
  refine ⟨hf, fun q _ => ?_, fun q _ hq h => ?_, fun _ => hs⟩
  · rw [sub_self, abs_zero]; exact abs_nonneg _
  · rw [sub_self, abs_zero, abs_eq_zero, sub_eq_zero] at h
    exact absurd (Rat.cast_injective h.symm) hq

/-- Conforming tables exist: this one conforms. -/
theorem witness_conforming : TempLutConforms hot hotLut := by
  intro c
  have v0 : ((val32 0#32 : ℚ) : ℝ) = 0 := by
    have : units32 0#32 = 0 := by decide
    simp [val32, this]
  have v200 : ((val32 0x43480000#32 : ℚ) : ℝ) = 200 := by
    have : units32 0x43480000#32 = 200 * 2 ^ 149 := by decide
    rw [val32, this, unitScale]; norm_num
  unfold hotLut
  by_cases h : c = 0#16 ∨ 4096 ≤ c.toNat
  · have e : tRef hot c = 0 := by
      unfold tRef
      rcases h with rfl | h
      · simp
      · simp [h]
    rw [if_pos h, e, ← v0]
    exact isRn32_self 0#32 (by decide) (by decide)
  · have h' := h
    rw [not_or, not_le] at h'
    obtain ⟨hc0, hc⟩ := h'
    have hn : c.toNat ≠ 0 := fun e => hc0 (BitVec.eq_of_toNat_eq (by simpa using e))
    obtain ⟨hp, hle⟩ := hot_inv_bounds c.toNat (by exact_mod_cast Nat.one_le_iff_ne_zero.2 hn)
      (by exact_mod_cast Nat.le_of_lt_succ hc)
    have hb : 500 ≤ 1 / tempInv hot c.toNat := by
      rw [le_div_iff₀ hp]; linarith
    have e : tRef hot c = 200 := by
      unfold tRef
      rw [if_neg hc0, if_neg (by simpa using hc)]
      dsimp only
      rw [if_neg (not_lt.2 hp.le), if_neg hp.ne', max_eq_left (by linarith), min_eq_right (by linarith)]
    rw [if_neg h, e, ← v200]
    exact isRn32_self _ (by decide) (by decide)

end Sys2Proof.Tests
end

section
/-! PROOFS. A step on an offered command (00_scope.md R10). -/

namespace Sys2Proof.Machine

/-- A word that decodes to a command is run as that command (R65). -/
theorem runWord_of_decode {w : Word} {i : Instr} (h : decode w = .ok i) (s : State) : runWord w s = exec i s := by
  simp [runWord, h]

/-- A block that can accept the word offered to it runs it and moves on to the host's next lines (R251). -/
theorem step_of_offered {s : State} (hrst : s.port.rst = false) (hvalid : s.port.cmdValid = true)
    (hready : s.cmdReady = true) : step s = mapNext advancePort (runWord s.port.cmd s) := by
  simp [step, portEvent, commandCycle, hrst, hvalid, hready]

/-- Settles O5: the step is `runWord` of the offered word, and that is `exec` of the decoded command. -/
theorem stepRunsOfferedCommand : Obligations.StepRunsOfferedCommand := by
  intro s t i hrst hvalid hready hdec hexec
  rw [step_of_offered hrst hvalid hready, runWord_of_decode hdec, hexec, mapNext_next]

end Sys2Proof.Machine
end

section
/-! PROOFS. rn32 as the nearest binary32 (00_scope.md R8). The quotient and the patterns are compared in integers, as
scaled distances in units of 2^-149; the patterns' values lie on a grid whose step is the ulp of the binade. -/

namespace Sys2Proof.Machine

/-! ### The sign bit of a pattern -/

theorem magUnits_signBit_or (p : DWord) : magUnits (0x80000000#32 ||| p) = magUnits p := by
  simp [magUnits, BitVec.extractLsb'_or]

theorem isFinite32_signBit_or (p : DWord) : isFinite32 (0x80000000#32 ||| p) = isFinite32 p := by
  simp [isFinite32, BitVec.extractLsb'_or]

theorem msb_signBit_or (p : DWord) : (0x80000000#32 ||| p).msb = true := by
  rw [BitVec.msb_or, show (0x80000000#32 : DWord).msb = true by decide, Bool.true_or]

theorem getLsbD_zero_signBit_or (p : DWord) : (0x80000000#32 ||| p).getLsbD 0 = p.getLsbD 0 := by
  simp

theorem units32_of_msb_eq_false {p : DWord} (h : p.msb = false) : units32 p = magUnits p := by
  simp [units32, h]

/-- Setting a clear sign bit negates the value. -/
theorem units32_signBit_or {p : DWord} (h : p.msb = false) : units32 (0x80000000#32 ||| p) = -units32 p := by
  rw [units32_of_msb_eq_false h, units32, msb_signBit_or, if_pos rfl, magUnits_signBit_or]

@[simp] theorem natAbs_units32 (p : DWord) : (units32 p).natAbs = magUnits p := by
  unfold units32; split <;> simp

/-! ### Patterns below that of +infinity -/

theorem msb_ofNat_of_lt {v : Nat} (h : v < 255 * 8388608) : (BitVec.ofNat 32 v).msb = false := by
  rw [BitVec.msb_eq_false_iff_two_mul_lt, BitVec.toNat_ofNat]
  omega

theorem isFinite32_ofNat_of_lt {v : Nat} (h : v < 255 * 8388608) : isFinite32 (BitVec.ofNat 32 v) = true := by
  have he : ((BitVec.ofNat 32 v).extractLsb' 23 8).toNat = v / 8388608 := by
    rw [BitVec.extractLsb'_toNat, BitVec.toNat_ofNat, Nat.shiftRight_eq_div_pow]
    norm_num only
    omega
  rw [isFinite32, bne_iff_ne]
  intro h255
  rw [h255, BitVec.toNat_ofNat] at he
  omega

theorem getLsbD_zero_ofNat_of_even {v : Nat} (h : v % 2 = 0) : (BitVec.ofNat 32 v).getLsbD 0 = false := by
  simp [BitVec.getLsbD_ofNat, Nat.testBit_zero, h, -BitVec.getLsbD_eq_getElem]

/-! ### The grid of binary32 values -/

/-- For every ulp of `2^k` units, `u` is a multiple of it or lies below the binade where that ulp begins. -/
def OnGrid (u : Int) : Prop := ∀ k : Nat, 2 ^ k ∣ u.natAbs ∨ u.natAbs < 2 ^ (23 + k)

theorem OnGrid.neg {u : Int} (h : OnGrid u) : OnGrid (-u) := by
  simpa [OnGrid] using h

/-- The value of every pattern lies on the grid. -/
theorem onGrid_units32 (q : DWord) : OnGrid (units32 q) := by
  intro k
  have hf : (q.extractLsb' 0 23).toNat < 2 ^ 23 := BitVec.isLt _
  simp only [natAbs_units32, magUnits]
  generalize (q.extractLsb' 0 23).toNat = f at *
  generalize (q.extractLsb' 23 8).toNat = e at *
  split
  · exact .inr (hf.trans_le (Nat.pow_le_pow_right two_pos (Nat.le_add_right 23 k)))
  · rcases Nat.lt_or_ge (e - 1) k with hlt | hk
    · right
      calc (2 ^ 23 + f) * 2 ^ (e - 1) < 2 ^ 24 * 2 ^ (e - 1) :=
            Nat.mul_lt_mul_of_pos_right (by omega) (by positivity)
        _ = 2 ^ (24 + (e - 1)) := (Nat.pow_add ..).symm
        _ ≤ 2 ^ (23 + k) := Nat.pow_le_pow_right two_pos (by omega)
    · exact .inl ((pow_dvd_pow 2 hk).mul_left _)

/-! ### The rounded significand is the nearest one -/

/-- `roundHalfEven` is nearest among all integers, and a tie with another one leaves it even. -/
theorem roundHalfEven_nearest {n d : Nat} (hd : 0 < d) (j : Int) :
    ((n : Int) - d * roundHalfEven n d).natAbs ≤ ((n : Int) - d * j).natAbs ∧
    (j ≠ roundHalfEven n d → ((n : Int) - d * j).natAbs = ((n : Int) - d * roundHalfEven n d).natAbs →
      roundHalfEven n d % 2 = 0) := by
  obtain ⟨hlo, hhi, heven⟩ := roundHalfEven_error n d hd
  generalize roundHalfEven n d = m at *
  rw [Nat.mul_assoc] at hlo hhi heven
  have hm : ((d * m : Nat) : Int) = d * m := Nat.cast_mul ..
  rw [← hm]
  rcases lt_trichotomy j m with h | rfl | h
  · have : (d : Int) * (j + 1) ≤ d * m := mul_le_mul_of_nonneg_left h (Int.natCast_nonneg d)
    rw [mul_add_one] at this
    omega
  · omega
  · have : (d : Int) * (m + 1) ≤ d * j := mul_le_mul_of_nonneg_left h (Int.natCast_nonneg d)
    rw [mul_add_one] at this
    omega

/-! ### The two fields that `rnMag` puts together -/

/-- The binades that `n / d` lies above the first normal one. -/
def rnExp (n d : Nat) : Nat := Nat.log2 (n * unitScale / d) - 23

/-- The significand of `n / d`, rounded once, in ulps of `2^(rnExp n d)` units. -/
def rnSig (n d : Nat) : Nat := roundHalfEven (n * unitScale) (d * 2 ^ rnExp n d)

theorem rnMag_eq (n d : Nat) : rnMag n d = rnExp n d * 8388608 + rnSig n d := rfl

section
variable {n d : Nat} (hd : 0 < d)
include hd

/-- Above the first normal binade the quotient has a significand of at least `2^23` ulps. -/
theorem le_mul_unitScale_of_rnExp_ne_zero (hk : rnExp n d ≠ 0) :
    d * 2 ^ rnExp n d * 2 ^ 23 ≤ n * unitScale := by
  have hlog : Nat.log2 (n * unitScale / d) = rnExp n d + 23 := by unfold rnExp at *; omega
  have hne : n * unitScale / d ≠ 0 := by
    intro h0; rw [h0, Nat.log2_zero] at hlog; omega
  have := (Nat.le_log2 hne).1 hlog.ge
  rwa [Nat.le_div_iff_mul_le hd, Nat.pow_add, mul_comm _ d, ← mul_assoc] at this

/-- The quotient has a significand below `2^24` ulps. -/
theorem mul_unitScale_lt : n * unitScale < d * 2 ^ rnExp n d * 2 ^ 24 := by
  have hlt : n * unitScale / d < 2 ^ (rnExp n d + 24) :=
    Nat.lt_log2_self.trans_le (Nat.pow_le_pow_right two_pos (by unfold rnExp; omega))
  rwa [Nat.div_lt_iff_lt_mul hd, Nat.pow_add, mul_comm _ d, ← mul_assoc] at hlt

theorem rnSig_le : rnSig n d ≤ 16777216 := by
  have h : n * unitScale / (d * 2 ^ rnExp n d) < 2 ^ 24 := Nat.div_lt_of_lt_mul (mul_unitScale_lt hd)
  exact (roundHalfEven_bounds ..).2.trans h

theorem le_rnSig_of_rnExp_ne_zero (hk : rnExp n d ≠ 0) : 8388608 ≤ rnSig n d := by
  have h : 2 ^ 23 ≤ n * unitScale / (d * 2 ^ rnExp n d) := by
    rw [Nat.le_div_iff_mul_le (by positivity), mul_comm]
    exact le_mul_unitScale_of_rnExp_ne_zero hd hk
  exact h.trans (roundHalfEven_bounds ..).1

section
variable (hn : n ≤ (2 ^ 24 - 1) * 2 ^ 104 * d)
include hn

omit hd in
/-- The largest finite binary32 is `2^24 - 1` ulps of the last binade. -/
theorem mul_unitScale_le : n * unitScale ≤ d * 2 ^ 253 * (2 ^ 24 - 1) :=
  calc n * unitScale ≤ (2 ^ 24 - 1) * 2 ^ 104 * d * unitScale := Nat.mul_le_mul_right _ hn
    _ = d * 2 ^ 253 * (2 ^ 24 - 1) := by unfold unitScale; ring

theorem rnExp_le : rnExp n d ≤ 253 := by
  by_contra hk
  have hpow : 2 ^ 254 ≤ 2 ^ rnExp n d := Nat.pow_le_pow_right two_pos (by omega)
  have : d * 2 ^ 254 * 2 ^ 23 ≤ d * 2 ^ 253 * (2 ^ 24 - 1) :=
    calc d * 2 ^ 254 * 2 ^ 23 ≤ d * 2 ^ rnExp n d * 2 ^ 23 := by gcongr
      _ ≤ n * unitScale := le_mul_unitScale_of_rnExp_ne_zero hd (by omega)
      _ ≤ d * 2 ^ 253 * (2 ^ 24 - 1) := mul_unitScale_le hn
  omega

/-- In the last binade the significand cannot carry. -/
theorem rnSig_le_of_last_binade (hk : rnExp n d = 253) : rnSig n d ≤ 2 ^ 24 - 1 := by
  obtain ⟨hlo, -, -⟩ := roundHalfEven_error (n * unitScale) (d * 2 ^ 253) (by positivity)
  have hN := mul_unitScale_le hn
  rw [rnSig, hk]
  by_contra hgt
  have : d * 2 ^ 253 * 2 ^ 24 ≤ d * 2 ^ 253 * roundHalfEven (n * unitScale) (d * 2 ^ 253) :=
    Nat.mul_le_mul_left _ (by omega)
  rw [Nat.mul_assoc 2] at hlo
  omega

/-- Up to the largest finite binary32, the pattern stays below that of +infinity. -/
theorem rnMag_lt : rnMag n d < 255 * 8388608 := by
  have hsig := rnSig_le hd (n := n)
  rw [rnMag_eq]
  rcases (rnExp_le hd hn).eq_or_lt with hk | hk
  · have := rnSig_le_of_last_binade hd hn hk
    omega
  · omega

end

end

/-! ### Nearest on the grid -/

/-- The distance of `num / den` from `u` units, scaled by `den * unitScale` to a natural number. -/
def unitsDist (num : Int) (den : Nat) (u : Int) : Nat := (num * unitScale - den * u).natAbs

theorem unitsDist_neg (num : Int) (den : Nat) (u : Int) : unitsDist (-num) den u = unitsDist num den (-u) := by
  unfold unitsDist
  rw [← Int.natAbs_neg]
  congr 1; ring

theorem abs_sub_val32 (num : Int) {den : Nat} (hd : 0 < den) (q : DWord) :
    |(num : ℝ) / den - (val32 q : ℝ)| = unitsDist num den (units32 q) / (den * unitScale) := by
  have hU : (0 : ℝ) < unitScale := by norm_num [unitScale]
  have hd' : (0 : ℝ) < den := Nat.cast_pos.2 hd
  have : (num : ℝ) / den - (val32 q : ℝ) = ((num * unitScale - den * units32 q : Int) : ℝ) / (den * unitScale) := by
    unfold val32; push_cast; field_simp
  rw [this, abs_div, abs_of_pos (mul_pos hd' hU), unitsDist, Nat.cast_natAbs, Int.cast_abs]

/-- The value of `p` is nearest to `num / den` on the grid, and a tie with another number of units leaves `p` even. -/
structure NearestOnGrid (num : Int) (den : Nat) (p : DWord) : Prop where
  le : ∀ u, OnGrid u → unitsDist num den (units32 p) ≤ unitsDist num den u
  even : ∀ u, OnGrid u → u ≠ units32 p → unitsDist num den u = unitsDist num den (units32 p) → p.getLsbD 0 = false

theorem NearestOnGrid.isRn32 {num : Int} {den : Nat} {p : DWord} (h : NearestOnGrid num den p) (hd : 0 < den)
    (hfin : isFinite32 p = true) (hsign : 0 ≤ num → p.msb = false) : IsRn32 ((num : ℝ) / den) p := by
  have hpos : (0 : ℝ) < den * unitScale := by unfold unitScale; positivity
  refine ⟨hfin, fun q _ => ?_, fun q _ hne htie => ?_, fun h0 => hsign ?_⟩
  · rw [abs_sub_val32 num hd, abs_sub_val32 num hd]
    gcongr
    exact h.le _ (onGrid_units32 q)
  · rw [abs_sub_val32 num hd, abs_sub_val32 num hd, div_left_inj' hpos.ne', Nat.cast_inj] at htie
    exact h.even _ (onGrid_units32 q) (fun he => hne (by rw [val32, val32, he])) htie
  · rwa [le_div_iff₀ (Nat.cast_pos.2 hd), zero_mul, Int.cast_nonneg_iff] at h0

/-- Rounding is symmetric: the sign bit turns the nearest of a quotient into the nearest of its opposite. -/
theorem NearestOnGrid.signBit_or {num : Int} {den : Nat} {p : DWord} (h : NearestOnGrid num den p)
    (hs : p.msb = false) : NearestOnGrid (-num) den (0x80000000#32 ||| p) := by
  constructor
  · intro u hu
    rw [units32_signBit_or hs, unitsDist_neg, unitsDist_neg, neg_neg]
    exact h.le _ hu.neg
  · intro u hu hne htie
    rw [units32_signBit_or hs] at hne htie
    rw [unitsDist_neg, unitsDist_neg, neg_neg] at htie
    rw [getLsbD_zero_signBit_or]
    exact h.even _ hu.neg (fun he => hne (by rw [← he, neg_neg])) htie

/-- On the multiples of the ulp, the distance is that of an integer from `n / d` counted in ulps. -/
theorem unitsDist_two_pow_mul (n d k : Nat) (j : Int) :
    unitsDist n d (2 ^ k * j) = (((n * unitScale : Nat) : Int) - ((d * 2 ^ k : Nat) : Int) * j).natAbs := by
  unfold unitsDist; push_cast; rw [mul_assoc]

/-- A number on the grid but no multiple of the ulp lies below the binade of `n / d`, farther away than the binade's
first number. -/
theorem unitsDist_lt_of_not_dvd {n d : Nat} (hd : 0 < d) {u : Int} (hu : OnGrid u) (hndvd : ¬ 2 ^ rnExp n d ∣ u.natAbs) :
    unitsDist n d (2 ^ rnExp n d * 2 ^ 23) < unitsDist n d u := by
  have hk : rnExp n d ≠ 0 := fun h0 => hndvd (by simp [h0])
  have hfirst := le_mul_unitScale_of_rnExp_ne_zero hd hk
  have hlt : (d : Int) * u < ((d * 2 ^ rnExp n d * 2 ^ 23 : Nat) : Int) := by
    have hu' : u < ((2 ^ (23 + rnExp n d) : Nat) : Int) :=
      Int.le_natAbs.trans_lt (Int.ofNat_lt.2 ((hu _).resolve_left hndvd))
    calc (d : Int) * u < d * ((2 ^ (23 + rnExp n d) : Nat) : Int) := mul_lt_mul_of_pos_left hu' (Int.natCast_pos.2 hd)
      _ = ((d * 2 ^ rnExp n d * 2 ^ 23 : Nat) : Int) := by push_cast; ring
  rw [unitsDist_two_pow_mul, unitsDist, ← Nat.cast_mul]
  omega

/-- The rounded significand is nearest among the multiples of its ulp. -/
theorem rnSig_nearest_of_multiple {n d : Nat} (hd : 0 < d) (j : Int) :
    unitsDist n d (2 ^ rnExp n d * rnSig n d) ≤ unitsDist n d (2 ^ rnExp n d * j) ∧
    (j ≠ rnSig n d → unitsDist n d (2 ^ rnExp n d * j) = unitsDist n d (2 ^ rnExp n d * rnSig n d) →
      rnSig n d % 2 = 0) := by
  simp only [unitsDist_two_pow_mul]
  exact roundHalfEven_nearest (by positivity) j

/-- The rounded significand is nearest on the whole grid: a number that is no multiple of its ulp is farther away than
the binade's first multiple. -/
theorem rnSig_nearest {n d : Nat} (hd : 0 < d) {u : Int} (hu : OnGrid u) :
    unitsDist n d (2 ^ rnExp n d * rnSig n d) ≤ unitsDist n d u ∧
    (u ≠ 2 ^ rnExp n d * rnSig n d → unitsDist n d u = unitsDist n d (2 ^ rnExp n d * rnSig n d) →
      rnSig n d % 2 = 0) := by
  by_cases hdvd : 2 ^ rnExp n d ∣ u.natAbs
  · obtain ⟨j, rfl⟩ := Int.natCast_dvd.2 hdvd
    rw [Nat.cast_pow, Nat.cast_ofNat]
    obtain ⟨hle, heven⟩ := rnSig_nearest_of_multiple (n := n) hd j
    exact ⟨hle, fun hne => heven (fun h => hne (by rw [h]))⟩
  · have hlt := (rnSig_nearest_of_multiple hd _).1.trans_lt (unitsDist_lt_of_not_dvd hd hu hdvd)
    exact ⟨hlt.le, fun _ htie => absurd htie hlt.ne'⟩

/-- The pattern of `rnMag` stands for the rounded significand in ulps. -/
theorem units32_rnMag {n d : Nat} (hd : 0 < d) (hn : n ≤ (2 ^ 24 - 1) * 2 ^ 104 * d) :
    units32 (BitVec.ofNat 32 (rnMag n d)) = 2 ^ rnExp n d * rnSig n d := by
  have hk := rnExp_le hd hn
  rw [units32_of_msb_eq_false (msb_ofNat_of_lt (rnMag_lt hd hn)), rnMag_eq,
    magUnits_binade _ _ (by omega) (rnSig_le hd) (or_iff_not_imp_left.2 (le_rnSig_of_rnExp_ne_zero hd))]
  push_cast; ring

theorem nearestOnGrid_rnMag {n d : Nat} (hd : 0 < d) (hn : n ≤ (2 ^ 24 - 1) * 2 ^ 104 * d) :
    NearestOnGrid n d (BitVec.ofNat 32 (rnMag n d)) := by
  constructor <;> intro u hu <;> rw [units32_rnMag hd hn]
  · exact (rnSig_nearest hd hu).1
  · intro hne htie
    have heven := (rnSig_nearest hd hu).2 hne htie
    exact getLsbD_zero_ofNat_of_even (by rw [rnMag_eq]; omega)

theorem rn32_natCast (n d : Nat) : rn32 n d = BitVec.ofNat 32 (rnMag n d) := by
  simp [rn32]

theorem rn32_of_neg {num : Int} (h : num < 0) (d : Nat) :
    rn32 num d = 0x80000000#32 ||| BitVec.ofNat 32 (rnMag num.natAbs d) := if_pos h

/-- Settles O41: a non-negative quotient by `nearestOnGrid_rnMag`, a negative one as the opposite of such a one. -/
theorem roundingIsNearestTiesToEven : Obligations.RoundingIsNearestTiesToEven := by
  intro num den hd hnum
  have hlt := rnMag_lt hd hnum
  have hnear := nearestOnGrid_rnMag hd hnum
  have hfin := isFinite32_ofNat_of_lt hlt
  have hmsb := msb_ofNat_of_lt hlt
  rcases lt_or_ge num 0 with hneg | hpos
  · rw [rn32_of_neg hneg]
    have hopp := hnear.signBit_or hmsb
    rw [← Int.eq_neg_natAbs_of_nonpos hneg.le] at hopp
    exact hopp.isRn32 hd (by rwa [isFinite32_signBit_or]) (fun h => absurd h hneg.not_ge)
  · lift num to Nat using hpos
    rw [rn32_natCast]
    exact hnear.isRn32 hd hfin (fun _ => hmsb)

end Sys2Proof.Machine
end

section
/-! PROOFS. The ring of 22 bytes as the window it stands for (10_state.md R29, 40_window_detector.md R81, R82). -/

namespace Sys2Proof.Machine

theorem winByte_set_self {w : List Byte} {j : Nat} (h : j < w.length) (b : Byte) : winByte (w.set j b) j = b := by
  simp [winByte, h]

theorem winByte_set_of_ne {w : List Byte} {i j : Nat} (h : j ≠ i) (b : Byte) :
    winByte (w.set j b) i = winByte w i := by
  simp [winByte, List.getD_eq_getElem?_getD, h]

@[simp] theorem ringWin_length (r : Ring) : (ringWin r).length = r.count := by simp [ringWin]

/-- The newest byte of a ring's window. -/
theorem ringWin_succ (mem : List Byte) (head c : Nat) :
    ringWin ⟨mem, head, c + 1⟩ = ringWin ⟨mem, head, c⟩ ++ [winByte mem ((head + c) % 22)] := by
  simp [ringWin, List.range_succ]

/-- Moving the head on by one drops the oldest byte of a ring's window. -/
theorem ringWin_drop_one (mem : List Byte) (head c : Nat) :
    (ringWin ⟨mem, head, c + 1⟩).drop 1 = ringWin ⟨mem, (head + 1) % 22, c⟩ := by
  simp [ringWin, List.range_succ_eq_map, Nat.add_comm 1, Nat.add_assoc]

/-- While fewer than 22 bytes are held, the slot after the newest is none of theirs: a byte written there and counted
in is appended to the window. -/
theorem ringWin_append {mem : List Byte} {c : Nat} (head : Nat) (b : Byte) (hmem : mem.length = 22) (hc : c < 22) :
    ringWin ⟨mem.set ((head + c) % 22) b, head, c + 1⟩ = ringWin ⟨mem, head, c⟩ ++ [b] := by
  have hheld : ringWin ⟨mem.set ((head + c) % 22) b, head, c⟩ = ringWin ⟨mem, head, c⟩ := by
    refine List.map_congr_left fun i hi => winByte_set_of_ne ?_ b
    have : i < c := List.mem_range.1 hi
    simp only [Config.frameLen]
    omega
  rw [ringWin_succ, hheld, winByte_set_self (by omega)]

theorem ringPush_of_full (mem : List Byte) (head : Nat) (b : Byte) :
    ringPush ⟨mem, head, 22⟩ b = ⟨mem.set head b, (head + 1) % 22, 22⟩ := rfl

theorem ringPush_of_not_full (mem : List Byte) (head : Nat) {c : Nat} (hc : c ≠ 22) (b : Byte) :
    ringPush ⟨mem, head, c⟩ b = ⟨mem.set ((head + c) % 22) b, head, c + 1⟩ := if_neg hc

theorem ringPush_wf {r : Ring} (b : Byte) (h : ringWf r) : ringWf (ringPush r b) := by
  obtain ⟨mem, head, c⟩ := r
  obtain ⟨hmem, hhead, hc⟩ : mem.length = 22 ∧ head < 22 ∧ c ≤ 22 := h
  by_cases hfull : c = 22
  · subst hfull
    rw [ringPush_of_full]
    exact ⟨by simpa using hmem, Nat.mod_lt _ (by decide), le_rfl⟩
  · rw [ringPush_of_not_full _ _ hfull]
    exact ⟨by simpa using hmem, hhead, by simp only [Config.frameLen]; omega⟩

theorem winPush_of_full {w : List Byte} (h : w.length = 22) (b : Byte) : winPush w b = w.drop 1 ++ [b] := if_pos h

theorem winPush_of_not_full {w : List Byte} (h : w.length ≠ 22) (b : Byte) : winPush w b = w ++ [b] := if_neg h

/-- A full ring writes over its oldest byte, which is the slot after the newest once the head has moved on. -/
theorem ringWin_ringPush {r : Ring} (b : Byte) (h : ringWf r) : ringWin (ringPush r b) = winPush (ringWin r) b := by
  obtain ⟨mem, head, c⟩ := r
  obtain ⟨hmem, hhead, hc⟩ : mem.length = 22 ∧ head < 22 ∧ c ≤ 22 := h
  by_cases hfull : c = 22
  · subst hfull
    have hslot : ((head + 1) % 22 + 21) % 22 = head := by omega
    have happend := ringWin_append ((head + 1) % 22) b hmem (by omega : 21 < 22)
    rw [hslot] at happend
    rw [ringPush_of_full, happend, winPush_of_full (ringWin_length _), ringWin_drop_one]
  · rw [ringPush_of_not_full _ _ hfull, ringWin_append head b hmem (by omega), winPush_of_not_full]
    rwa [ringWin_length]

/-- Settles O55: `ringWin_ringPush` is the step; clear and reset leave a count of 0. -/
theorem ringRefinesWindow : Obligations.RingRefinesWindow := by
  refine ⟨fun r b h => ⟨ringPush_wf b h, ringWin_ringPush b h⟩, fun r ⟨hmem, _⟩ => ⟨?_, rfl, ringWin_length r⟩,
    fun mem hmem => ⟨?_, rfl⟩⟩
  all_goals exact ⟨hmem, Nat.zero_lt_succ _, Nat.zero_le _⟩

end Sys2Proof.Machine
end

section
/-! PROOFS. What a command word can write of the cache and of the window (10_state.md R24, R25). -/

namespace Sys2Proof.Safety

open Sys2Proof.Machine

/-- Settles O28, along what a word can do: only CONFIG and a decoding PUSH write the cache. -/
theorem cacheChangesOnlyByDecodeOrConfig : Obligations.CacheChangesOnlyByDecodeOrConfig := by
  intro w s t hrun hne
  rcases runWord_cases hrun with hsame | ⟨p, hdec, hp, rfl⟩ | ⟨-, -, rfl⟩ | ⟨b, hdec, -, rfl⟩
  · exact absurd (congrArg State.tel hsame) hne
  · exact .inr ⟨p, hdec, hp, by simp⟩
  · exact absurd rfl hne
  · rcases pushByte_cases b s.port.nowMs s with ⟨-, -, he⟩ | ⟨-, -, he⟩ | ⟨-, he⟩ <;> rw [he] at hne ⊢
    · exact .inl ⟨b, hdec, rfl, rfl, rfl⟩
    · exact absurd rfl hne
    · exact absurd rfl hne

/-- Settles O29, along what a word can do: CONFIG and CLEAR empty the window, and a PUSH that does not leave it pushed has
decoded it. -/
theorem windowChangesOnlyByItsThreeCommands : Obligations.WindowChangesOnlyByItsThreeCommands := by
  intro w s t hrun hne
  rcases runWord_cases hrun with hsame | ⟨p, hdec, hp, rfl⟩ | ⟨hdec, -, rfl⟩ | ⟨b, hdec, -, rfl⟩
  · exact absurd (congrArg State.win hsame) hne
  · exact .inr (.inr ⟨p, hdec, hp, by simp⟩)
  · exact .inr (.inl ⟨hdec, rfl⟩)
  · refine .inl ⟨b, hdec, ?_⟩
    rw [← winPush_eq_pushed]
    rcases pushByte_cases b s.port.nowMs s with ⟨-, -, he⟩ | ⟨-, -, he⟩ | ⟨-, he⟩ <;> rw [he]
    · exact .inr ⟨rfl, rfl⟩
    · exact .inl rfl
    · exact .inl rfl

end Sys2Proof.Safety
end

section
/-! PROOFS. The floats a decode commits are finite, volts and throttle not negative, tempC at most 200.0
(42_field_decoder.md R135 to R142, R146). -/

namespace Sys2Proof.Machine

/-! ### Ranges of the raw fields -/

theorem natAbs_signed16_le {n : Nat} (h : n < 65536) : (signed16 n).natAbs ≤ 32768 := by
  unfold signed16; split <;> omega

theorem rawFields_voltage_lt (w : List Byte) : (rawFields w).voltage < 65536 := memRead_lt w 0 2

theorem rawFields_throttle_lt (w : List Byte) : (rawFields w).throttle < 65536 := memRead_lt w 12 2

theorem natAbs_rawFields_amps_le (w : List Byte) : (rawFields w).amps.natAbs ≤ 32768 :=
  natAbs_signed16_le (memRead_lt w 4 2)

/-! ### Rounded values -/

theorem isFinite32_rn32 {num : Int} {den : Nat} (hd : 0 < den) (h : num.natAbs ≤ (2 ^ 24 - 1) * 2 ^ 104 * den) :
    isFinite32 (rn32 num den) = true :=
  (roundingIsNearestTiesToEven num den hd h).1

theorem msb_rn32_natCast {n d : Nat} (hd : 0 < d) (h : n ≤ (2 ^ 24 - 1) * 2 ^ 104 * d) : (rn32 n d).msb = false := by
  rw [rn32_natCast]
  exact msb_ofNat_of_lt (rnMag_lt hd h)

theorem magUnits_rn32 (num : Int) (den : Nat) :
    magUnits (rn32 num den) = magUnits (BitVec.ofNat 32 (rnMag num.natAbs den)) := by
  unfold rn32; split
  · rw [magUnits_signBit_or]
  · rfl

/-- Rounding at most doubles a magnitude: 0 is on the grid, so the nearest value is no farther from the quotient than 0. -/
theorem mul_magUnits_rn32_le {num : Int} {den : Nat} (hd : 0 < den)
    (h : num.natAbs ≤ (2 ^ 24 - 1) * 2 ^ 104 * den) :
    den * magUnits (rn32 num den) ≤ 2 * (num.natAbs * unitScale) := by
  have hnear := (nearestOnGrid_rnMag hd h).le 0 (fun _ => .inl (dvd_zero _))
  rw [units32_of_msb_eq_false (msb_ofNat_of_lt (rnMag_lt hd h)), ← magUnits_rn32, unitsDist, unitsDist, mul_zero,
    ← Nat.cast_mul, ← Nat.cast_mul] at hnear
  omega

/-! ### The conversions -/

theorem isFinite32_voltsOf {raw : Nat} (h : raw < 65536) : isFinite32 (voltsOf raw) = true :=
  isFinite32_rn32 (by decide) (by simp only [Int.natAbs_natCast, Config.voltDiv]; omega)

theorem msb_voltsOf {raw : Nat} (h : raw < 65536) : (voltsOf raw).msb = false :=
  msb_rn32_natCast (by decide) (by simp only [Config.voltDiv]; omega)

theorem isFinite32_throttleOf {raw : Nat} (h : raw < 65536) : isFinite32 (throttleOf raw) = true :=
  isFinite32_rn32 (by decide) (by simp only [Int.natAbs_natCast, Config.dutyDiv]; omega)

theorem msb_throttleOf {raw : Nat} (h : raw < 65536) : (throttleOf raw).msb = false :=
  msb_rn32_natCast (by decide) (by simp only [Config.dutyDiv]; omega)

section
variable {raw : Int} (h : raw.natAbs ≤ 32768)
include h

theorem ampsOf_in_range :
    (raw * Config.bitsPerAmpDen).natAbs ≤ (2 ^ 24 - 1) * 2 ^ 104 * Config.bitsPerAmpNum := by
  simp only [Config.bitsPerAmpDen, Config.bitsPerAmpNum]; omega

theorem isFinite32_ampsOf : isFinite32 (ampsOf raw) = true := isFinite32_rn32 (by decide) (ampsOf_in_range h)

/-- A coarse bound, 2^13 A; it keeps the phase current far below the largest finite value. -/
theorem magUnits_ampsOf_le : magUnits (ampsOf raw) ≤ 8192 * unitScale := by
  have hle : 25 * magUnits (ampsOf raw) ≤ 2 * ((raw * 2).natAbs * unitScale) :=
    mul_magUnits_rn32_le (by decide) (ampsOf_in_range h)
  have hraw : (raw * 2).natAbs * unitScale ≤ 65536 * unitScale := Nat.mul_le_mul_right _ (by omega)
  omega

theorem isFinite32_phaseAmpsOf (duty : Nat) : isFinite32 (phaseAmpsOf (ampsOf raw) duty) = true := by
  unfold phaseAmpsOf; split
  · next hduty =>
    refine isFinite32_rn32 (by unfold unitScale; positivity) ?_
    rw [Int.natAbs_mul, natAbs_units32]
    calc magUnits (ampsOf raw) * 10000 ≤ 8192 * unitScale * 10000 := Nat.mul_le_mul_right _ (magUnits_ampsOf_le h)
      _ = 81920000 * (unitScale * 1) := by ring
      _ ≤ (2 ^ 24 - 1) * 2 ^ 104 * (unitScale * duty) :=
        Nat.mul_le_mul (by decide) (Nat.mul_le_mul_left _ hduty)
  · decide

end

theorem tempLut_toNat_le (c : Word) : (tempLut c).toNat ≤ Config.tMaxPattern := by
  unfold tempLut; split
  · exact Nat.zero_le _
  · have := (Config.tempEntry c).isLt
    simp only [BitVec.toNat_ofNat, Config.tMaxPattern]
    omega

end Sys2Proof.Machine
end

section
/-! PROOFS. The invariant of 10_state.md R30 and R26 holds at reset, and every step keeps it. -/

namespace Sys2Proof.Safety

open Sys2Proof.Machine

/-! ### The cache -/

theorem telInv_reset : TelInv Tel.reset := by decide

theorem telInv_commitDecode (w : List Byte) (p : Byte) (t : DWord) : TelInv (commitDecode w p t) where
  left := fun h => nomatch h
  right := ⟨tempLut_toNat_le _, msb_voltsOf (rawFields_voltage_lt w), msb_throttleOf (rawFields_throttle_lt w),
    isFinite32_voltsOf (rawFields_voltage_lt w), isFinite32_ampsOf (natAbs_rawFields_amps_le w),
    isFinite32_throttleOf (rawFields_throttle_lt w), isFinite32_phaseAmpsOf (natAbs_rawFields_amps_le w) _⟩

/-! ### The invariant, by the three registers it speaks of -/

/-- The invariant says nothing of the response and the host's lines. -/
theorem Inv.congr {s t : State} (h : Inv s) (hcfg : t.cfg = s.cfg) (hwin : t.win = s.win) (htel : t.tel = s.tel) :
    Inv t := by
  unfold Inv
  rw [hcfg, hwin, htel]
  exact h

theorem inv_of_reset_values {s : State} (hcfg : s.cfg = Cfg.reset) (hwin : s.win = []) (htel : s.tel = Tel.reset) :
    Inv s := by
  refine ⟨by simp [hwin], fun _ => ⟨hcfg, hwin, htel⟩, fun hc => ?_, by simp [hwin, trigger_of_length_ne], ?_⟩
  · rw [hcfg] at hc; cases hc
  · rw [htel]; exact telInv_reset

/-- On a configured block the invariant is four separate facts. -/
theorem inv_of_configured {s : State} (hcfg : s.cfg.configured = true) (hpole : s.cfg.poleCount ≠ 0#8)
    (hwf : Memory.wf s.win) (hframe : ¬ (trigger s.win = true ∧ checksumOk s.win = true)) (htel : TelInv s.tel) :
    Inv s :=
  ⟨hwf, fun hc => absurd hcfg (by simp [hc]), fun _ => hpole, hframe, htel⟩

/-- A configured block with an empty window. -/
theorem inv_of_configured_of_win_eq_nil {s : State} (hcfg : s.cfg.configured = true) (hpole : s.cfg.poleCount ≠ 0#8)
    (hwin : s.win = []) (htel : TelInv s.tel) : Inv s :=
  inv_of_configured hcfg hpole (by simp [hwin]) (by simp [hwin, trigger_of_length_ne]) htel

/-! ### Every step keeps it -/

/-- A PUSH decodes a valid frame and empties the window, or leaves a window that is no valid frame. -/
theorem pushByte_keeps_inv (b : Byte) (now : DWord) {s : State} (h : Inv s) (hcfg : s.cfg.configured = true) :
    Inv (pushByte b now s) := by
  obtain ⟨hwf, -, hpole, -, htel⟩ := h
  have hwf' := winPush_wf s.win b hwf
  rcases pushByte_cases b now s with ⟨-, -, he⟩ | ⟨-, hbad, he⟩ | ⟨hnone, he⟩ <;> rw [he]
  · exact inv_of_configured_of_win_eq_nil hcfg (hpole hcfg) rfl (telInv_commitDecode _ _ _)
  · exact inv_of_configured hcfg (hpole hcfg) hwf' (by simp [hbad]) htel
  · exact inv_of_configured hcfg (hpole hcfg) hwf' (by simp [hnone]) htel

theorem runWord_keeps_inv {w : Word} {s t : State} (h : Inv s) (hrun : runWord w s = .next t) : Inv t := by
  rcases runWord_cases hrun with hsame | ⟨p, -, hp, rfl⟩ | ⟨-, hcfg, rfl⟩ | ⟨b, -, hcfg, rfl⟩
  · rw [hsame]
    exact h.congr rfl rfl rfl
  · exact inv_of_configured_of_win_eq_nil rfl hp rfl telInv_reset
  · obtain ⟨-, -, hpole, -, htel⟩ := h
    exact inv_of_configured_of_win_eq_nil hcfg (hpole hcfg) rfl htel
  · exact pushByte_keeps_inv b _ h hcfg

theorem advancePort_keeps_inv {s : State} (h : Inv s) : Inv (advancePort s) :=
  h.congr (advancePort_cfg s) (advancePort_win s) (advancePort_tel s)

/-- Settles O3, along what a step can do: reset leaves the reset values, a command keeps the invariant, and the other port
events touch none of its registers. -/
theorem stepKeepsStateInvariant : Obligations.StepKeepsStateInvariant := by
  intro s t h hstep
  rcases step_cases hstep with ⟨-, rfl⟩ | ⟨-, -, -, u, hrun, rfl⟩ | ⟨-, -, -, rfl⟩ | ⟨-, -, rfl⟩
  · exact inv_of_reset_values (resetEdge_cfg s) (resetEdge_win s) (resetEdge_tel s)
  · exact advancePort_keeps_inv (runWord_keeps_inv h hrun)
  · exact advancePort_keeps_inv h
  · exact h.congr (responseCycle_cfg s) (responseCycle_win s) (responseCycle_tel s)

/-- Settles O2: the state after reset has the reset values. -/
theorem resetStateMeetsInvariant : Obligations.ResetStateMeetsInvariant := inv_of_reset_values rfl rfl rfl

end Sys2Proof.Safety
end

section
/-! PROOFS. A command that only reads writes the response and nothing else (20_memory.md R48, 60_exceptions.md R226). -/

namespace Sys2Proof.Safety

open Sys2Proof.Machine

/-- No command looks at the response before it: what each answers replaces it. -/
theorem exec_with_rsp (i : Instr) (s : State) (r : Option Response) : exec i { s with rsp := r } = exec i s := by
  cases i <;> rfl

theorem eq_with_rsp_of_readsOnly {i : Instr} {s t : State} (hread : readsOnly i = true) (h : exec i s = .next t) :
    t = { s with rsp := t.rsp } := by
  rcases exec_cases h with hsame | ⟨p, rfl, -⟩ | ⟨rfl, -⟩ | ⟨b, rfl, -⟩
  · exact hsame
  all_goals cases hread

/-- Settles O34: the second run starts from the first state but for its response, which no command looks at. -/
theorem readsChangeOnlyTheResponse : Obligations.ReadsChangeOnlyTheResponse := by
  intro i s t u hread ht hu
  have hsame := eq_with_rsp_of_readsOnly hread ht
  have hagain : exec i t = .next t := calc
    exec i t = exec i { s with rsp := t.rsp } := congrArg (exec i) hsame
    _ = exec i s := exec_with_rsp i s t.rsp
    _ = .next t := ht
  exact ⟨hsame, Host.Outcome.next.inj (hu.symm.trans hagain)⟩

end Sys2Proof.Safety
end

section
/-! PROOFS. The reserved bytes of a frame are read by no field (20_memory.md R42, R55). -/

namespace Sys2Proof.Machine

/-- A read does not see a byte outside its `n` offsets from `off`. -/
theorem memRead_set_of_outside (w : List Byte) {k off n : Nat} (b : Byte) (h : k < off ∨ off + n ≤ k) :
    memRead (w.set k b) off n = memRead w off n := by
  induction n generalizing off with
  | zero => rfl
  | succ n ih => rw [memRead_succ, memRead_succ, winByte_set_of_ne (by omega), ih (by omega)]

theorem rawFields_set_reserved (w : List Byte) {k : Nat} (b : Byte) (hk : k = 6 ∨ k = 7 ∨ k = 17) :
    rawFields (w.set k b) = rawFields w := by
  have hread (off n : Nat) (h : k < off ∨ off + n ≤ k) := memRead_set_of_outside w b h
  have hstatus : winByte (w.set k b) 16 = winByte w 16 := winByte_set_of_ne (by omega) b
  unfold rawFields
  rw [hread 0 2 (by omega), hread 2 2 (by omega), hread 4 2 (by omega), hread 8 4 (by omega), hread 12 2 (by omega),
    hread 14 2 (by omega), hstatus]

/-- A decode reads the window through its raw fields only. -/
theorem commitDecode_congr {w w' : List Byte} (h : rawFields w = rawFields w') (p : Byte) (t : DWord) :
    commitDecode w p t = commitDecode w' p t := by
  unfold commitDecode
  rw [h]

/-- Settles O46: no raw field reads a reserved byte. -/
theorem reservedBytesAreNotDecoded : Obligations.ReservedBytesAreNotDecoded := by
  intro w p b t k _ hk
  exact commitDecode_congr (rawFields_set_reserved w b (by simpa using hk)) p t

end Sys2Proof.Machine
end

section
/-! PROOFS. The opcode map of 30_encoding.md R62 as the one table of the encoding: a command's row is found by its opcode, and
the decoder of R65 and the encoder undo each other. -/

namespace Sys2Proof

/-- A table with no key twice: the row found for a key is the row that has it. -/
theorem find?_key_eq_some_iff {α β : Type} [BEq α] [LawfulBEq α] {table : List (α × β)}
    (hkeys : (table.map Prod.fst).Nodup) (a : α) (b : β) :
    table.find? (fun row => row.1 == a) = some (a, b) ↔ (a, b) ∈ table := by
  refine ⟨List.mem_of_find?_eq_some, fun hmem => ?_⟩
  have hfound : (table.find? (fun row => row.1 == a)).isSome := List.find?_isSome.mpr ⟨_, hmem, beq_self_eq_true a⟩
  obtain ⟨row, hrow⟩ := Option.isSome_iff_exists.mp hfound
  have hkey : row.1 = a := by simpa using List.find?_some hrow
  rw [hrow, List.inj_on_of_nodup_map hkeys (List.mem_of_find?_eq_some hrow) hmem hkey]

/-! ### The opcode map -/

theorem opcodeMap_opcodes_nodup (imm : Byte) : ((opcodeMap imm).map Prod.fst).Nodup := by
  have hconst : (opcodeMap imm).map Prod.fst = (opcodeMap 0#8).map Prod.fst := rfl
  rw [hconst]
  decide

theorem commandOf_eq_some_iff {op imm : Byte} {f : Format} {i : Instr} :
    commandOf op imm = some (f, i) ↔ (op, f, i) ∈ opcodeMap imm := by
  rw [← find?_key_eq_some_iff (opcodeMap_opcodes_nodup imm), commandOf, Option.map_eq_some_iff]
  constructor
  · rintro ⟨⟨op', f', i'⟩, hrow, ⟨⟩⟩
    have hop : op' = op := by simpa using List.find?_some hrow
    rwa [hop] at hrow
  · exact fun hrow => ⟨_, hrow, rfl⟩

/-- Every command has its row. -/
theorem exists_row_of_command (i : Instr) : ∃ f, (opcodeByte i, f, i) ∈ opcodeMap (immByte i) := by
  suffices h : ∃ f, commandOf (opcodeByte i) (immByte i) = some (f, i) from
    h.imp fun _ => commandOf_eq_some_iff.mp
  cases i <;> exact ⟨_, rfl⟩

/-! ### The decoder and the encoder -/

/-- A word decodes to the command of its opcode's row, if its low byte is zero where the row is of Format N (R65). -/
theorem decode_eq_ok_iff {w : Word} {i : Instr} :
    decode w = .ok i ↔ ∃ f, (opcodeOf w, f, i) ∈ opcodeMap (immOf w) ∧ (f = .n → immOf w = 0#8) := by
  simp only [← commandOf_eq_some_iff, decode]
  cases commandOf (opcodeOf w) (immOf w) with
  | none => simp
  | some row =>
    obtain ⟨f, cmd⟩ := row
    cases f with
    | i => simp
    | n => by_cases himm : immOf w = 0#8 <;> simp [himm]

theorem decode_encode (i : Instr) : decode (encode i) = .ok i := by
  obtain ⟨f, hrow⟩ := exists_row_of_command i
  refine decode_eq_ok_iff.mpr ⟨f, by simpa [encode] using hrow, fun hf => ?_⟩
  obtain ⟨-, ⟨rfl, -⟩ | ⟨-, himm⟩⟩ := commandOf_cases (commandOf_eq_some_iff.mpr hrow)
  · cases hf
  · simpa [encode] using himm

theorem encode_of_decode {w : Word} {i : Instr} (h : decode w = .ok i) : encode i = w := by
  obtain ⟨f, hrow, hformat⟩ := decode_eq_ok_iff.mp h
  obtain ⟨hop, hlow⟩ := commandOf_cases (commandOf_eq_some_iff.mpr hrow)
  have himm : immByte i = immOf w := by
    rcases hlow with ⟨-, hoperand⟩ | ⟨hf, hzero⟩
    · exact hoperand
    · exact hzero.trans (hformat hf).symm
  rw [encode, hop, himm, opcodeOf_append_immOf]

/-- Settles O8: the row that holds the command's opcode holds the command. -/
theorem decodeOfEncodeIsIdentity : Obligations.DecodeOfEncodeIsIdentity := decode_encode

/-- Settles O9: the row's command has the word's opcode, and its low byte is the word's in either format. -/
theorem encodeOfDecodeIsIdentity : Obligations.EncodeOfDecodeIsIdentity := fun _ _ => encode_of_decode

/-- Settles O12, word by word. -/
theorem specWordsDecodeAsListed : Obligations.SpecWordsDecodeAsListed := by
  unfold Obligations.SpecWordsDecodeAsListed
  decide

end Sys2Proof
end

section
/-! PROOFS. The mask and match table of 30_encoding.md R63: its rows are those of the opcode map, so it and the decoder of
R65 accept the same words. -/

namespace Sys2Proof

/-- The row of R63 for an opcode in a format: Format I leaves the low byte free. -/
def patternRow (op : Byte) : Format → PatternRow
  | .i => ⟨op ++ 0#8, 0xFF00#16⟩
  | .n => ⟨op ++ 0#8, 0xFFFF#16⟩

theorem patternTable_eq_map (imm : Byte) :
    patternTable = (opcodeMap imm).map (fun row => patternRow row.1 row.2.1) := by
  simp [patternTable, opcodeMap, patternRow]

/-- Words are compared byte by byte. -/
theorem word_eq_iff {w w' : Word} : w = w' ↔ opcodeOf w = opcodeOf w' ∧ immOf w = immOf w' := by
  refine ⟨fun h => h ▸ ⟨rfl, rfl⟩, fun ⟨hop, himm⟩ => ?_⟩
  rw [← opcodeOf_append_immOf w, hop, himm, opcodeOf_append_immOf]

theorem opcodeOf_and (w w' : Word) : opcodeOf (w &&& w') = opcodeOf w &&& opcodeOf w' := BitVec.extractLsb'_and

theorem immOf_and (w w' : Word) : immOf (w &&& w') = immOf w &&& immOf w' := BitVec.extractLsb'_and

theorem patternRow_selects_iff {op : Byte} {f : Format} {w : Word} :
    (patternRow op f).selects w = true ↔ opcodeOf w = op ∧ (f = .n → immOf w = 0#8) := by
  have hhigh : opcodeOf w &&& 255#8 = opcodeOf w := BitVec.and_allOnes
  have hlow : immOf w &&& 255#8 = immOf w := BitVec.and_allOnes
  rw [PatternRow.selects, beq_iff_eq, word_eq_iff, opcodeOf_and, immOf_and]
  cases f with
  | i =>
    have hmask : opcodeOf 0xFF00#16 = 255#8 ∧ immOf 0xFF00#16 = 0#8 := by decide
    simp [patternRow, hmask, hhigh]
  | n =>
    have hmask : opcodeOf 0xFFFF#16 = 255#8 ∧ immOf 0xFFFF#16 = 255#8 := by decide
    simp [patternRow, hmask, hhigh, hlow]

/-- A command's own row is the row of its opcode and format. -/
theorem rowOf_eq_patternRow {op imm : Byte} {f : Format} {i : Instr} (h : (op, f, i) ∈ opcodeMap imm) :
    rowOf i = patternRow op f := by
  have hcolumn : (opcodeMap imm).map (fun row => rowOf row.2.2) =
      (opcodeMap imm).map (fun row => patternRow row.1 row.2.1) := by
    simp [opcodeMap, rowOf, patternRow]
  exact List.map_inj_left.mp hcolumn _ h

theorem patternRow_mem_patternTable {op imm : Byte} {f : Format} {i : Instr} (h : (op, f, i) ∈ opcodeMap imm) :
    patternRow op f ∈ patternTable := by
  rw [patternTable_eq_map imm]
  exact List.mem_map_of_mem h

theorem legalWord_iff_decode (w : Word) : legalWord w = true ↔ ∃ i, decode w = .ok i := by
  rw [legalWord, patternTable_eq_map (immOf w)]
  simp only [List.any_map, List.any_eq_true, Function.comp, patternRow_selects_iff, decode_eq_ok_iff]
  constructor
  · rintro ⟨⟨op, f, i⟩, hrow, rfl, hformat⟩
    exact ⟨i, f, hrow, hformat⟩
  · rintro ⟨i, f, hrow, hformat⟩
    exact ⟨_, hrow, rfl, hformat⟩

/-- Settles O10. The rows of R63 are those of the opcode map, whose opcodes are all different. -/
theorem decoderAgreesWithPatternTable : Obligations.DecoderAgreesWithPatternTable := by
  refine ⟨fun w => (legalWord_iff_decode w).symm, fun w i h => ?_, fun w r r' hr hr' hw hw' => ?_⟩
  · obtain ⟨f, hrow, hformat⟩ := decode_eq_ok_iff.mp h
    rw [rowOf_eq_patternRow hrow]
    exact ⟨patternRow_mem_patternTable hrow, patternRow_selects_iff.mpr ⟨rfl, hformat⟩⟩
  · rw [patternTable_eq_map 0#8] at hr hr'
    obtain ⟨row, hrow, rfl⟩ := List.mem_map.mp hr
    obtain ⟨row', hrow', rfl⟩ := List.mem_map.mp hr'
    have hop : row.1 = row'.1 := (patternRow_selects_iff.mp hw).1.symm.trans (patternRow_selects_iff.mp hw').1
    rw [List.inj_on_of_nodup_map (opcodeMap_opcodes_nodup 0#8) hrow hrow' hop]

end Sys2Proof
end

section
/-! PROOFS. The two accumulators of Fletcher-16 in the closed form of 41_checksum.md R113. -/

namespace Sys2Proof.Safety

open Sys2Proof.Machine

/-- Fletcher-16 from any pair of accumulators: each byte enters `c0` once, and `c1` once for itself and every byte after. -/
theorem foldl_fletcherStep (data : List Byte) (c0 c1 : Nat) :
    data.foldl fletcherStep (c0 % 255, c1 % 255) =
      ((c0 + sumBytes data) % 255, (c1 + data.length * c0 + weightedSum data) % 255) := by
  induction data generalizing c0 c1 with
  | nil => simp [sumBytes, weightedSum]
  | cons b bs ih =>
    have hstep : fletcherStep (c0 % 255, c1 % 255) b = ((c0 + b.toNat) % 255, (c1 + (c0 + b.toNat)) % 255) := by
      simp [fletcherStep]
    rw [List.foldl_cons, hstep, ih, sumBytes_cons, weightedSum_cons, List.length_cons]
    congr 2 <;> ring

theorem fletcher16_eq (data : List Byte) : fletcher16 data = (sumBytes data % 255, weightedSum data % 255) := by
  simpa [fletcher16] using foldl_fletcherStep data 0 0

end Sys2Proof.Safety
end

section
/-! PROOFS. The frame MKFRAME builds (30_encoding.md R69) is valid, and its fields read back from its bytes (20_memory.md R42
to R46). -/

namespace Sys2Proof.Machine

open Sys2Proof.Safety

/-! ### Validity -/

/-- 18 data bytes with their seal are a valid frame. -/
theorem validFrame_sealFrame {data : List Byte} (h : data.length = 18) : ValidFrame (sealFrame data) := by
  have htake : (sealFrame data).take 18 = data := by simp [sealFrame, ← h]
  rw [ValidFrame, FrameShaped, ChecksumMatches, htake]
  simp [sealFrame, h, fletcher16_eq]

/-! ### The fields -/

theorem memRead_two_of_bytesOf16 {w : List Byte} {off : Nat} {v : Word}
    (h : [winByte w off, winByte w (off + 1)] = bytesOf16 v) : memRead w off 2 = v.toNat := by
  have hv := v.isLt
  simp only [bytesOf16, List.cons.injEq, and_true] at h
  obtain ⟨h0, h1⟩ := h
  simp only [memRead_succ, memRead_zero, h0, h1, BitVec.extractLsb'_toNat, Nat.shiftRight_eq_div_pow]
  omega

theorem memRead_four_of_bytesOf32 {w : List Byte} {off : Nat} {v : DWord}
    (h : [winByte w off, winByte w (off + 1), winByte w (off + 2), winByte w (off + 3)] = bytesOf32 v) :
    memRead w off 4 = v.toNat := by
  have hv := v.isLt
  simp only [bytesOf32, List.cons.injEq, and_true] at h
  obtain ⟨h0, h1, h2, h3⟩ := h
  simp only [memRead_succ, memRead_zero, h0, h1, h2, h3, BitVec.extractLsb'_toNat, Nat.shiftRight_eq_div_pow]
  omega

theorem signed16_toNat (v : Word) : signed16 v.toNat = v.toInt := by
  rw [signed16, BitVec.toInt_eq_toNat_cond]
  split <;> split <;> omega

theorem rawFields_mkFrame (v t a : Word) (e : DWord) (thr md : Word) (st : Byte) :
    rawFields (mkFrame v t a e thr md st) = ⟨v.toNat, t, a.toInt, e, thr.toNat, md.toNat, st⟩ := by
  have hread16 {off : Nat} {x : Word} := memRead_two_of_bytesOf16 (w := mkFrame v t a e thr md st) (off := off) (v := x)
  have hstatus : winByte (mkFrame v t a e thr md st) 16 = st := rfl
  rw [rawFields, hread16 (off := 0) (x := v) rfl, hread16 (off := 2) (x := t) rfl, hread16 (off := 4) (x := a) rfl,
    memRead_four_of_bytesOf32 (v := e) rfl, hread16 (off := 12) (x := thr) rfl, hread16 (off := 14) (x := md) rfl,
    signed16_toNat, hstatus]
  simp

/-- Settles O56: the 18 data bytes are sealed, and each field lies at its offset in little-endian order. -/
theorem builtFrameDecodesToItsOperands : Obligations.BuiltFrameDecodesToItsOperands := fun v t a e thr md st =>
  ⟨validFrame_sealFrame rfl, rawFields_mkFrame v t a e thr md st⟩

end Sys2Proof.Machine
end

section
/-! PROOFS. What a word that selects no row does (30_encoding.md R65), and the one response of every command (R64). -/

namespace Sys2Proof.Machine

theorem rspCode_toNat_lt (e : RspStatus) : (rspCode e).toNat < 5 := by
  cases e <;> decide

/-- Settles O16, status by status. -/
theorem statusCodesAreBelowFive : Obligations.StatusCodesAreBelowFive :=
  ⟨rfl, rfl, rfl, rfl, rfl, rspCode_toNat_lt⟩

/-! ### Illegal words -/

theorem runWord_of_not_legalWord {w : Word} (h : legalWord w = false) (s : State) :
    runWord w s = .next (raise s .errIllegal) := by
  cases hdec : decode w with
  | ok i => exact absurd ((legalWord_iff_decode w).mpr ⟨i, hdec⟩) (by simp [h])
  | error e => simp [runWord, hdec]

theorem advancePort_eq (s : State) :
    advancePort s = { s with port := s.inbox.headD PortIn.quiet, inbox := s.inbox.tail } := by
  obtain ⟨cfg, win, tel, rsp, port, inbox⟩ := s
  cases inbox <;> rfl

/-- Settles O11: the word decodes to no command, so the step raises ERR_ILLEGAL and moves on to the host's next lines. -/
theorem unselectedWordAnswersIllegal : Obligations.UnselectedWordAnswersIllegal := by
  intro s hrst hvalid hrsp hillegal
  have hready : s.cmdReady = true := by simp [State.cmdReady, hrsp]
  rw [step_of_offered hrst hvalid hready, runWord_of_not_legalWord hillegal, mapNext_next, advancePort_eq]
  rfl

/-! ### The response of a command -/

/-- A command that needs a configured block answers with its effect's response or with the error's. -/
theorem requireConfigured_answers {s effect t : State} (heffect : ∃ r, effect.rsp = some r)
    (h : requireConfigured s effect = .next t) : ∃ r, t.rsp = some r := by
  rcases requireConfigured_cases h with ⟨-, rfl⟩ | ⟨-, rfl⟩
  · exact heffect
  · exact ⟨_, rfl⟩

theorem pushByte_answers (b : Byte) (now : DWord) (s : State) : ∃ r, (pushByte b now s).rsp = some r := by
  rcases pushByte_cases b now s with ⟨-, -, he⟩ | ⟨-, -, he⟩ | ⟨-, he⟩ <;> rw [he] <;> exact ⟨_, rfl⟩

theorem exec_answers {i : Instr} {s t : State} (h : exec i s = .next t) : ∃ r, t.rsp = some r := by
  cases i with
  | config p =>
    cases h
    split <;> exact ⟨_, rfl⟩
  | rdConfig =>
    cases h
    exact ⟨_, rfl⟩
  | push b => exact requireConfigured_answers (pushByte_answers b s.port.nowMs s) h
  | bufRead k =>
    refine requireConfigured_answers ?_ h
    split <;> exact ⟨_, rfl⟩
  | _ => exact requireConfigured_answers ⟨_, rfl⟩ h

theorem exec_host_lines {i : Instr} {s t : State} (h : exec i s = .next t) : t.port = s.port ∧ t.inbox = s.inbox := by
  rcases exec_cases h with hsame | ⟨p, -, -, rfl⟩ | ⟨-, -, rfl⟩ | ⟨b, -, -, rfl⟩
  · rw [hsame]
    exact ⟨rfl, rfl⟩
  · exact ⟨rfl, rfl⟩
  · exact ⟨rfl, rfl⟩
  · exact ⟨pushByte_port .., pushByte_inbox ..⟩

/-- Settles O35: every effect, and every error in place of one, is an answer. -/
theorem everyCommandAnswersOneResponse : Obligations.EveryCommandAnswersOneResponse := fun _ _ _ h =>
  ⟨exec_answers h, exec_host_lines h⟩

end Sys2Proof.Machine
end

section
/-! PROOFS. The assembler (30_encoding.md R68): its mnemonics are a column of the opcode map, so what it assembles are the
words the decoder accepts. -/

namespace Sys2Proof.Machine

open Sys2Proof.Safety

/-! ### The mnemonic table -/

theorem mnemonicTable_eq_map (imm : Byte) :
    mnemonicTable = (opcodeMap imm).map (fun row => (mnemonicOf row.2.2, row.2.1, row.1)) := rfl

theorem mnemonicTable_mnemonics_nodup : (mnemonicTable.map Prod.fst).Nodup := by decide

theorem lookupMnemonic_of_mem {m : List Char} {f : Format} {op : Byte} (h : (m, f, op) ∈ mnemonicTable) :
    lookupMnemonic m = .ok (f, op) := by
  have hfind := (find?_key_eq_some_iff mnemonicTable_mnemonics_nodup m (f, op)).mpr h
  simp only [lookupMnemonic, hfind]

/-- The operand a command is written with is the low byte in Format I, and none in Format N. -/
theorem operandOf_eq {op imm : Byte} {f : Format} {i : Instr} (h : (op, f, i) ∈ opcodeMap imm) :
    operandOf i = if f = .i then some imm.toNat else none := by
  have hcolumn : (opcodeMap imm).map (fun row => operandOf row.2.2) =
      (opcodeMap imm).map (fun row => if row.2.1 = .i then some imm.toNat else none) := rfl
  exact List.map_inj_left.mp hcolumn _ h

/-! ### What it assembles -/

section
variable {m : List Char} {op : Byte}

theorem assembleCommand_of_formatN (h : (m, .n, op) ∈ mnemonicTable) :
    assembleCommand m none = .ok (op ++ 0#8) ∧ ∀ v, assembleCommand m (some v) = .error .operandUnexpected := by
  simp [assembleCommand, lookupMnemonic_of_mem h]

theorem assembleCommand_of_formatI (h : (m, .i, op) ∈ mnemonicTable) :
    assembleCommand m none = .error .operandMissing ∧
    ∀ v, assembleCommand m (some v) = if v < 256 then .ok (op ++ BitVec.ofNat 8 v) else .error .operandRange := by
  simp [assembleCommand, lookupMnemonic_of_mem h]

end

/-- A mnemonic's word is legal, with a zero low byte in Format N. -/
theorem legalWord_of_mem_mnemonicTable {m : List Char} {f : Format} {op imm : Byte} (h : (m, f, op) ∈ mnemonicTable)
    (hformat : f = .n → imm = 0#8) : legalWord (op ++ imm) = true := by
  rw [mnemonicTable_eq_map imm] at h
  obtain ⟨⟨_, f, i⟩, hrow, ⟨⟩⟩ := List.mem_map.mp h
  exact (legalWord_iff_decode _).mpr ⟨i, decode_eq_ok_iff.mpr ⟨f, by simpa using hrow, by simpa using hformat⟩⟩

/-- Settles O57, format by format. -/
theorem assemblerEncodesOrRefuses : Obligations.AssemblerEncodesOrRefuses := by
  rintro ⟨m, f, op⟩ hrow
  constructor
  · rintro ⟨⟩
    obtain ⟨hnone, hsome⟩ := assembleCommand_of_formatN hrow
    exact ⟨hnone, legalWord_of_mem_mnemonicTable hrow fun _ => rfl, hsome⟩
  · rintro ⟨⟩
    obtain ⟨hnone, hsome⟩ := assembleCommand_of_formatI hrow
    refine ⟨hnone, fun v hv => ⟨?_, legalWord_of_mem_mnemonicTable hrow (by simp)⟩, fun v hv => ?_⟩
    · rw [hsome, if_pos hv]
    · rw [hsome, if_neg (by omega)]

/-- Settles O58: the command's row gives its mnemonic, its opcode and, in Format I, its operand. -/
theorem assemblerGivesEachCommandItsWord : Obligations.AssemblerGivesEachCommandItsWord := by
  intro i
  obtain ⟨f, hrow⟩ := exists_row_of_command i
  have hmnemonic : (mnemonicOf i, f, opcodeByte i) ∈ mnemonicTable := by
    rw [mnemonicTable_eq_map (immByte i)]
    exact List.mem_map_of_mem hrow
  rw [operandOf_eq hrow, encode]
  cases f with
  | n =>
    obtain ⟨-, ⟨⟨⟩, -⟩ | ⟨-, himm⟩⟩ := commandOf_cases (commandOf_eq_some_iff.mpr hrow)
    rw [if_neg (by decide), (assembleCommand_of_formatN hmnemonic).1, himm]
  | i =>
    rw [if_pos rfl, (assembleCommand_of_formatI hmnemonic).2, if_pos (immByte i).isLt, BitVec.ofNat_toNat,
      BitVec.setWidth_eq]

end Sys2Proof.Machine
end

section
/-! PROOFS. One PUSH in the terms of a frame (40_window_detector.md R81, R85 to R89): its three results by the shape
and the checksum of the pushed window. -/

namespace Sys2Proof.Safety

open Sys2Proof.Machine

/-! ### The validator in the closed form -/

theorem memRead_two (w : List Byte) (off : Nat) :
    memRead w off 2 = (winByte w off).toNat + 256 * (winByte w (off + 1)).toNat := by
  simp only [memRead_succ, memRead_zero, Nat.mul_zero, Nat.add_zero]

/-- Both accumulators fit a byte, so the 16-bit comparison of R111 is one of each byte with its own accumulator. -/
theorem checksumOk_iff_checksumMatches {w : List Byte} (h : w.length = 22) :
    checksumOk w = true ↔ ChecksumMatches w := by
  have hc0 : sumBytes (w.take 18) % 255 < 2 ^ 8 := (Nat.mod_lt _ (by decide)).trans (by decide)
  have hb0 := (winByte w 18).isLt
  have hfield : memRead w 18 2 = (winByte w 18).toNat + 256 * (winByte w 19).toNat := memRead_two w 18
  rw [ChecksumMatches, ← winByte_eq_iff w 18 (by omega), ← winByte_eq_iff w 19 (by omega)]
  simp only [checksumOk, Config.dataLen, Config.cksOff, fletcher16_eq, beq_iff_eq, hfield,
    ← BitVec.toNat_inj, BitVec.toNat_ofNat]
  rw [← Nat.shiftLeft_add_eq_or_of_lt hc0, Nat.shiftLeft_eq]
  omega

/-! ### The three results -/

section
variable {b : Byte} {t : DWord} {s : State}

theorem pushByte_of_not_frameShaped (hshape : ¬ FrameShaped (pushed s.win b)) :
    pushByte b t s = { s with win := pushed s.win b, rsp := some ⟨.ok, 0#32⟩ } := by
  rw [← trigger_iff_frameShaped] at hshape
  simp [pushByte, winPush_eq_pushed, hshape, respond]

theorem pushByte_of_not_checksumMatches (hshape : FrameShaped (pushed s.win b))
    (hbad : ¬ ChecksumMatches (pushed s.win b)) :
    pushByte b t s = { s with win := pushed s.win b, rsp := some ⟨.ok, 0xFFFFFFFF#32⟩ } := by
  rw [← checksumOk_iff_checksumMatches hshape.1] at hbad
  rw [← trigger_iff_frameShaped] at hshape
  simp [pushByte, winPush_eq_pushed, hshape, hbad, respond]

theorem pushByte_of_validFrame (h : ValidFrame (pushed s.win b)) :
    pushByte b t s = { s with win := [], tel := commitDecode (pushed s.win b) s.cfg.poleCount t,
                              rsp := some ⟨.ok, 1#32⟩ } := by
  obtain ⟨hshape, hok⟩ := h
  rw [← checksumOk_iff_checksumMatches hshape.1] at hok
  rw [← trigger_iff_frameShaped] at hshape
  simp [pushByte, winPush_eq_pushed, hshape, hok, respond, winClear]

end

theorem exec_push_of_configured (b : Byte) {s : State} (h : s.cfg.configured = true) :
    exec (.push b) s = .next (pushByte b s.port.nowMs s) :=
  requireConfigured_of_configured s _ h

/-- Settles O24: without the frame shape the push only appends. -/
theorem pushWithoutTriggerAppends : Obligations.PushWithoutTriggerAppends := fun b s hcfg hshape => by
  rw [exec_push_of_configured b hcfg, pushByte_of_not_frameShaped hshape]

/-- Settles O25: the frame shape without the checksum keeps the window. -/
theorem pushChecksumFailureKeepsWindow : Obligations.PushChecksumFailureKeepsWindow := fun b s hcfg hshape hbad => by
  rw [exec_push_of_configured b hcfg, pushByte_of_not_checksumMatches hshape hbad]

/-- Settles O27: the 22 bytes have the frame shape, and a checksum field of 0 matches 18 zero bytes. -/
theorem falseZeroFrameIsAccepted : Obligations.FalseZeroFrameIsAccepted := by
  intro s hcfg hwin
  have hvalid : ValidFrame (pushed s.win 0xFF#8) := by rw [hwin]; decide
  rw [exec_push_of_configured _ hcfg, pushByte_of_validFrame hvalid]
  exact ⟨_, rfl, rfl, rfl, rfl, rfl⟩

end Sys2Proof.Safety
end

section
/-! PROOFS. The registers a decode commits, from the window's bytes at their offsets (20_memory.md R42 to R45,
42_field_decoder.md R135 to R145). -/

namespace Sys2Proof.Safety

open Sys2Proof.Machine

/-! ### The raw fields as bytes put together -/

theorem winByte_eq_getD {w : List Byte} {i : Nat} (h : i < w.length) (d : Byte) : winByte w i = w.getD i d := by
  rw [winByte_of_lt w i h, List.getD_eq_getElem w d h]

theorem toNat_append_byte {n : Nat} (hi : BitVec n) (lo : Byte) : (hi ++ lo).toNat = lo.toNat + 256 * hi.toNat := by
  rw [BitVec.toNat_append, ← Nat.shiftLeft_add_eq_or_of_lt lo.isLt, Nat.shiftLeft_eq]
  omega

theorem memRead_two_eq_append (w : List Byte) (off : Nat) :
    memRead w off 2 = (winByte w (off + 1) ++ winByte w off : Word).toNat := by
  simp only [toNat_append_byte, memRead_two]

theorem memRead_four_eq_append (w : List Byte) (off : Nat) :
    memRead w off 4 =
      (winByte w (off + 3) ++ winByte w (off + 2) ++ winByte w (off + 1) ++ winByte w off : DWord).toNat := by
  simp only [toNat_append_byte, memRead_succ, memRead_zero, Nat.mul_zero, Nat.add_zero, Nat.add_assoc]

theorem rawFields_eq (w : List Byte) :
    rawFields w =
      { voltage   := (winByte w 1 ++ winByte w 0 : Word).toNat
        tempADC   := winByte w 3 ++ winByte w 2
        amps      := (winByte w 5 ++ winByte w 4 : Word).toInt
        eRPM      := winByte w 11 ++ winByte w 10 ++ winByte w 9 ++ winByte w 8
        throttle  := (winByte w 13 ++ winByte w 12 : Word).toNat
        motorDuty := (winByte w 15 ++ winByte w 14 : Word).toNat
        status    := winByte w 16 } := by
  simp only [rawFields, memRead_two_eq_append, memRead_four_eq_append, signed16_toNat, BitVec.ofNat_toNat,
    BitVec.setWidth_eq]

/-! ### The conversions as the statements write them -/

theorem ampsOf_eq (raw : Int) : ampsOf raw = rn32 (2 * raw) 25 := by
  simp only [ampsOf, Config.bitsPerAmpDen, Config.bitsPerAmpNum, Nat.cast_ofNat, Int.mul_comm]

theorem toNat_zextByte (b : Byte) : (zextByte b).toNat = b.toNat :=
  BitVec.toNat_setWidth_of_le (by decide)

theorem rpmOf_of_ne_zero (e : DWord) {p : Byte} (h : p ≠ 0#8) : rpmOf e p = BitVec.ofNat 32 (e.toNat / p.toNat) := by
  apply BitVec.eq_of_toNat_eq
  have hle : e.toNat / p.toNat < 2 ^ 32 := (Nat.div_le_self _ _).trans_lt e.isLt
  rw [rpmOf, if_neg h, BitVec.toNat_udiv, toNat_zextByte, BitVec.toNat_ofNat, Nat.mod_eq_of_lt hle]

theorem phaseAmpsOf_eq (amps : DWord) (duty : Nat) :
    phaseAmpsOf amps duty = if duty = 0 then 0#32 else rn32 (units32 amps * 10000) (unitScale * duty) := by
  rcases Nat.eq_zero_or_pos duty with rfl | h
  · rfl
  · rw [phaseAmpsOf, if_pos h, if_neg h.ne']
    rfl

/-- Settles O26: the push commits the decode of the pushed window, whose fields are its bytes put together. -/
theorem pushOfValidFrameDecodes : Obligations.PushOfValidFrameDecodes := by
  intro b s hcfg hpole hvalid f amps
  have hlen : (pushed s.win b).length = 22 := hvalid.1.1
  have hbyte {i : Nat} (h : i < 22) : winByte (pushed s.win b) i = f i := winByte_eq_getD (by omega) _
  rw [exec_push_of_configured b hcfg, pushByte_of_validFrame hvalid]
  simp [commitDecode, rawFields_eq, ampsOf_eq, rpmOf_of_ne_zero _ hpole, phaseAmpsOf_eq, hbyte, amps, voltsOf,
    throttleOf]

end Sys2Proof.Safety
end

section
/-! PROOFS. The window commands beside PUSH (40_window_detector.md R90 to R92). -/

namespace Sys2Proof.Machine

theorem zextByte_eq_ofNat (b : Byte) : zextByte b = BitVec.ofNat 32 b.toNat := (BitVec.ofNat_toNat 32 b).symm

/-- A length within the capacity fits its five bits; only a full window sets the bit above. -/
theorem countWord_of_wf {w : List Byte} (h : Memory.wf w) :
    countWord w = BitVec.ofNat 32 (if w.length = 22 then 0x116 else w.length) := by
  have hle : w.length ≤ 22 := h
  by_cases hfull : w.length = 22
  · simp [countWord, winFull, hfull, zextBit]
  · have hbits : (BitVec.ofNat 5 w.length).zeroExtend 32 = BitVec.ofNat 32 w.length := by
      apply BitVec.eq_of_toNat_eq
      simp only [BitVec.toNat_setWidth, BitVec.toNat_ofNat]
      omega
    simp [countWord, winFull, hfull, zextBit, hbits]

theorem exec_bufRead_of_configured (i : Byte) {s : State} (h : s.cfg.configured = true) :
    exec (.bufRead i) s =
      .next (if i.toNat < s.win.length then respond s (zextByte (winByte s.win i.toNat)) else raise s .errRange) :=
  requireConfigured_of_configured s _ h

/-- Settles O21: a configured block runs the clear. -/
theorem clearEmptiesWindow : Obligations.ClearEmptiesWindow := fun s hcfg => requireConfigured_of_configured s _ hcfg

/-- Settles O22: an index that holds a byte is below the length, and one past the end is not. -/
theorem bufReadReturnsHeldByte : Obligations.BufReadReturnsHeldByte := by
  intro i s hcfg
  rw [exec_bufRead_of_configured i hcfg]
  constructor
  · intro b hb
    obtain ⟨hlt, -⟩ := List.getElem?_eq_some_iff.mp hb
    rw [if_pos hlt, (Safety.winByte_eq_iff _ _ hlt b).mpr hb, zextByte_eq_ofNat]
    rfl
  · intro hle
    rw [if_neg (Nat.not_lt.mpr hle)]
    rfl

/-- Settles O23: the answer is the count word of a window within its capacity. -/
theorem bufCountReportsLengthAndFull : Obligations.BufCountReportsLengthAndFull := by
  intro s hcfg hwf
  rw [← countWord_of_wf hwf]
  exact requireConfigured_of_configured s _ hcfg

end Sys2Proof.Machine
end

section
/-! PROOFS. Streams of pushes (40_window_detector.md R93 to R96): each push adds one byte to the last 22 bytes of the stream
or, on a success, starts the window anew. -/

namespace Sys2Proof.Safety

open Sys2Proof.Machine

/-! ### The last 22 bytes -/

/-- What is dropped from the front of a stream is not among its last bytes. -/
theorem rtake_rtake_append {α : Type} (n : Nat) (l m : List α) : ((l.rtake n) ++ m).rtake n = (l ++ m).rtake n := by
  simp [List.rtake_eq_reverse_take_reverse, List.take_append, List.take_take]

theorem rtake_of_length_le {α : Type} {n : Nat} {l : List α} (h : l.length ≤ n) : l.rtake n = l := by
  rw [List.rtake, Nat.sub_eq_zero_of_le h, List.drop_zero]

theorem rtake_length_le {α : Type} (n : Nat) (l : List α) : (l.rtake n).length ≤ n := by
  rw [List.rtake, List.length_drop]
  omega

theorem rtake_append_length {α : Type} (l m : List α) : (l ++ m).rtake m.length = m := by
  rw [List.rtake, List.length_append, Nat.add_sub_cancel, List.drop_left]

theorem pushed_eq_rtake {w : List Byte} (h : w.length ≤ 22) (b : Byte) : pushed w b = (w ++ [b]).rtake 22 := by
  rw [pushed, List.rtake_concat_succ]
  split
  · next hfull => rw [List.rtake, hfull, List.drop_one]
  · rw [rtake_of_length_le (by omega)]

/-- Two pushes on a full window leave its 20 newest bytes and the two. -/
theorem pushed_pushed_of_full {w : List Byte} (h : w.length = 22) (a b : Byte) :
    pushed (pushed w a) b = w.drop 2 ++ [a, b] := by
  match w, h with
  | x :: y :: w, h => simp_all [pushed]

theorem frameShaped_append_pair {w : List Byte} (h : w.length = 20) (a b : Byte) :
    FrameShaped (w ++ [a, b]) ↔ a = 0xFF#8 ∧ b = 0xFF#8 := by
  simp [FrameShaped, h]

/-! ### One push -/

section
variable {s : State} (hcfg : s.cfg.configured = true)
include hcfg

/-- The three things one push of a stream can do, by the window it makes. -/
theorem pushStep_cases (p : Byte × DWord) :
    (ValidFrame (pushed s.win p.1) ∧ (pushStep s p).win = [] ∧ responseData (pushStep s p) = 1#32) ∨
    (FrameShaped (pushed s.win p.1) ∧ ¬ ChecksumMatches (pushed s.win p.1) ∧
      (pushStep s p).win = pushed s.win p.1 ∧ responseData (pushStep s p) = 0xFFFFFFFF#32) ∨
    (¬ FrameShaped (pushed s.win p.1) ∧ (pushStep s p).win = pushed s.win p.1 ∧
      responseData (pushStep s p) = 0#32) := by
  obtain ⟨-, hwin, hdata⟩ := pushStep_eq s p hcfg (decode_encode _)
  rw [hwin, hdata]
  by_cases hshape : FrameShaped (pushed s.win p.1)
  · by_cases hok : ChecksumMatches (pushed s.win p.1)
    · rw [pushByte_of_validFrame ⟨hshape, hok⟩]
      exact .inl ⟨⟨hshape, hok⟩, rfl, rfl⟩
    · rw [pushByte_of_not_checksumMatches hshape hok]
      exact .inr (.inl ⟨hshape, hok, rfl, rfl⟩)
  · rw [pushByte_of_not_frameShaped hshape]
    exact .inr (.inr ⟨hshape, rfl, rfl⟩)

theorem pushStep_configured (p : Byte × DWord) : (pushStep s p).cfg.configured = true := by
  obtain ⟨hsame, -⟩ := pushStep_eq s p hcfg (decode_encode _)
  rw [hsame, hcfg]

theorem responseData_pushStep_eq_one_iff (p : Byte × DWord) :
    responseData (pushStep s p) = 1#32 ↔ ValidFrame (pushed s.win p.1) := by
  rcases pushStep_cases hcfg p with ⟨hvalid, -, hdata⟩ | ⟨-, hbad, -, hdata⟩ | ⟨hshape, -, hdata⟩
  · exact iff_of_true hdata hvalid
  · exact iff_of_false (by rw [hdata]; decide) fun hvalid => hbad hvalid.2
  · exact iff_of_false (by rw [hdata]; decide) fun hvalid => hshape hvalid.1

theorem responseData_pushStep_eq_zero_iff (p : Byte × DWord) :
    responseData (pushStep s p) = 0#32 ↔ ¬ FrameShaped (pushed s.win p.1) := by
  rcases pushStep_cases hcfg p with ⟨⟨hshape, -⟩, -, hdata⟩ | ⟨hshape, -, -, hdata⟩ | ⟨hshape, -, hdata⟩
  · exact iff_of_false (by rw [hdata]; decide) (not_not_intro hshape)
  · exact iff_of_false (by rw [hdata]; decide) (not_not_intro hshape)
  · exact iff_of_true hdata hshape

/-- A success empties the window. -/
theorem pushStep_win_of_eq_one {p : Byte × DWord} (h : responseData (pushStep s p) = 1#32) :
    (pushStep s p).win = [] := by
  rcases pushStep_cases hcfg p with ⟨-, hwin, -⟩ | ⟨-, -, -, hdata⟩ | ⟨-, -, hdata⟩
  · exact hwin
  all_goals exact absurd (hdata.symm.trans h) (by decide)

/-- Any other result keeps the pushed window. -/
theorem pushStep_win_of_ne_one {p : Byte × DWord} (h : responseData (pushStep s p) ≠ 1#32) :
    (pushStep s p).win = pushed s.win p.1 := by
  rcases pushStep_cases hcfg p with ⟨-, -, hdata⟩ | ⟨-, -, hwin, -⟩ | ⟨-, hwin, -⟩
  · exact absurd hdata h
  · exact hwin
  · exact hwin

end

/-- Settles O53: the window of the second push is 20 old bytes and the two pushed ones. -/
theorem afterFailureOnlyStopPairTriggers : Obligations.AfterFailureOnlyStopPairTriggers := by
  intro s p q hcfg hfull hfirst
  rw [Ne, responseData_pushStep_eq_zero_iff (pushStep_configured hcfg p), not_not, pushStep_win_of_ne_one hcfg hfirst,
    pushed_pushed_of_full hfull, frameShaped_append_pair (by simp [hfull])]

/-! ### Streams -/

theorem pushAll_append (s : State) (ps qs : List (Byte × DWord)) :
    pushAll s (ps ++ qs) = pushAll (pushAll s ps) qs := by
  induction ps generalizing s with
  | nil => rfl
  | cons p ps ih => exact ih (pushStep s p)

theorem pushCodes_append (s : State) (ps qs : List (Byte × DWord)) :
    pushCodes s (ps ++ qs) = pushCodes s ps ++ pushCodes (pushAll s ps) qs := by
  induction ps generalizing s with
  | nil => rfl
  | cons p ps ih => exact congrArg (responseData (pushStep s p) :: ·) (ih (pushStep s p))

theorem pushCodes_concat (s : State) (ps : List (Byte × DWord)) (q : Byte × DWord) :
    pushCodes s (ps ++ [q]) = pushCodes s ps ++ [responseData (pushStep (pushAll s ps) q)] :=
  pushCodes_append s ps [q]

theorem pushAll_configured {s : State} (hcfg : s.cfg.configured = true) (ps : List (Byte × DWord)) :
    (pushAll s ps).cfg.configured = true := by
  induction ps generalizing s with
  | nil => exact hcfg
  | cons p ps ih => exact ih (pushStep_configured hcfg p)

/-- Every code of a stream is the answer to one of its pushes. -/
theorem exists_push_of_mem_pushCodes {s : State} {ps : List (Byte × DWord)} {c : DWord} (h : c ∈ pushCodes s ps) :
    ∃ before p after, ps = before ++ p :: after ∧ responseData (pushStep (pushAll s before) p) = c := by
  induction ps generalizing s with
  | nil => cases h
  | cons p ps ih =>
    rcases List.mem_cons.mp h with hc | hc
    · exact ⟨[], p, ps, rfl, hc.symm⟩
    · obtain ⟨before, q, after, rfl, hq⟩ := ih hc
      exact ⟨p :: before, q, after, rfl, hq⟩

/-- Each push without success takes the last 22 bytes of the window and its byte, so the stream the last 22 of all. -/
theorem pushAll_win_of_ne_one {s : State} {ps : List (Byte × DWord)} (hcfg : s.cfg.configured = true)
    (hwf : Memory.wf s.win) (hcodes : ∀ c ∈ pushCodes s ps, c ≠ 1#32) :
    (pushAll s ps).win = (s.win ++ ps.map Prod.fst).rtake 22 := by
  induction ps generalizing s with
  | nil =>
    rw [List.map_nil, List.append_nil, rtake_of_length_le (n := 22) hwf]
    rfl
  | cons p ps ih =>
    obtain ⟨hfirst, hrest⟩ := List.forall_mem_cons.mp hcodes
    have hwin : (pushStep s p).win = (s.win ++ [p.1]).rtake 22 := by
      rw [pushStep_win_of_ne_one hcfg hfirst, pushed_eq_rtake hwf]
    have hwf' : Memory.wf (pushStep s p).win := by
      rw [pushStep_win_of_ne_one hcfg hfirst, ← winPush_eq_pushed]
      exact winPush_wf _ _ hwf
    calc (pushAll (pushStep s p) ps).win
        = ((s.win ++ [p.1]).rtake 22 ++ ps.map Prod.fst).rtake 22 := by
          rw [ih (pushStep_configured hcfg p) hwf' hrest, hwin]
      _ = (s.win ++ (p :: ps).map Prod.fst).rtake 22 := by
          rw [rtake_rtake_append, List.append_assoc, List.map_cons, List.singleton_append]

/-- Settles O51: the statement's drop is `List.rtake`. -/
theorem windowIsTailOfStream : Obligations.WindowIsTailOfStream := fun _ _ => pushAll_win_of_ne_one

/-- A stream too short to fill the window triggers nothing. -/
theorem pushCodes_eq_zero_of_short {s : State} {ps : List (Byte × DWord)} (hcfg : s.cfg.configured = true)
    (hshort : s.win.length + ps.length ≤ 21) : ∀ c ∈ pushCodes s ps, c = 0#32 := by
  induction ps generalizing s with
  | nil => exact fun _ hc => nomatch hc
  | cons p ps ih =>
    rw [List.length_cons] at hshort
    have hlen : (pushed s.win p.1).length = s.win.length + 1 := by rw [pushed_length, if_neg (by omega)]
    have hcode : responseData (pushStep s p) = 0#32 :=
      (responseData_pushStep_eq_zero_iff hcfg p).mpr fun ⟨hfull, _⟩ => by omega
    have hwin : (pushStep s p).win = pushed s.win p.1 := pushStep_win_of_ne_one hcfg (by rw [hcode]; decide)
    exact List.forall_mem_cons.mpr ⟨hcode, ih (pushStep_configured hcfg p) (by rw [hwin, hlen]; omega)⟩

/-- Settles O54: a success leaves the window empty, so 21 pushes after it cannot fill it. -/
theorem successesAreTwentyTwoPushesApart : Obligations.SuccessesAreTwentyTwoPushesApart := by
  intro s p ps hcfg hone hlen
  refine pushCodes_eq_zero_of_short (pushStep_configured hcfg p) ?_
  rw [pushStep_win_of_eq_one hcfg hone, List.length_nil]
  omega

/-! ### A frame in a stream -/

/-- None of the 21 pushes before a success is one: after it, the later push would have answered 0. -/
theorem ne_one_of_last_eq_one {s : State} {ps : List (Byte × DWord)} {q : Byte × DWord}
    (hcfg : s.cfg.configured = true) (hlen : ps.length ≤ 21) (hlast : responseData (pushStep (pushAll s ps) q) = 1#32) :
    ∀ c ∈ pushCodes s ps, c ≠ 1#32 := by
  rintro c hc rfl
  obtain ⟨before, p, after, rfl, hp⟩ := exists_push_of_mem_pushCodes hc
  have hafter : (after ++ [q]).length ≤ 21 := by
    simp only [List.length_append, List.length_cons, List.length_nil] at hlen ⊢
    omega
  have hmem : responseData (pushStep (pushAll s (before ++ p :: after)) q) ∈
      pushCodes (pushStep (pushAll s before) p) (after ++ [q]) := by
    rw [pushCodes_concat, pushAll_append]
    exact List.mem_concat_self
  have hzero := successesAreTwentyTwoPushesApart _ p _ (pushAll_configured hcfg before) hp hafter _ hmem
  rw [hlast] at hzero
  exact absurd hzero (by decide)

/-- While no push before it succeeds, the last byte of a valid frame completes that frame as the window. -/
theorem last_eq_one_of_ne_one {s : State} {ps : List (Byte × DWord)} {q : Byte × DWord}
    (hcfg : s.cfg.configured = true) (hwf : Memory.wf s.win) (hvalid : ValidFrame ((ps ++ [q]).map Prod.fst))
    (hcodes : ∀ c ∈ pushCodes s ps, c ≠ 1#32) :
    responseData (pushStep (pushAll s ps) q) = 1#32 := by
  have hlen : ((ps ++ [q]).map Prod.fst).length = 22 := hvalid.1.1
  have hwin := pushAll_win_of_ne_one hcfg hwf hcodes
  have hframe : pushed (pushAll s ps).win q.1 = (ps ++ [q]).map Prod.fst := calc
    pushed (pushAll s ps).win q.1 = ((s.win ++ ps.map Prod.fst).rtake 22 ++ [q.1]).rtake 22 := by
      rw [hwin, pushed_eq_rtake (rtake_length_le _ _)]
    _ = (s.win ++ (ps ++ [q]).map Prod.fst).rtake 22 := by
      rw [rtake_rtake_append, List.append_assoc, List.map_append, List.map_singleton]
    _ = (ps ++ [q]).map Prod.fst := by rw [← hlen, rtake_append_length]
  exact (responseData_pushStep_eq_one_iff (pushAll_configured hcfg ps) q).mpr (hframe ▸ hvalid)

/-- Settles O52: an earlier success rules out the last (R96), and without one the last byte completes the frame (R93). -/
theorem frameIsFoundUnlessEarlierSuccess : Obligations.FrameIsFoundUnlessEarlierSuccess := by
  intro s ps hcfg hwf hvalid
  have hlen : (ps.map Prod.fst).length = 22 := hvalid.1.1
  rcases List.eq_nil_or_concat' ps with rfl | ⟨init, q, rfl⟩
  · cases hlen
  · rw [pushCodes_concat, List.getLast?_concat, List.dropLast_concat, Option.some_inj]
    have hinit : init.length ≤ 21 := Nat.le_of_lt_succ (by simpa using hlen.le)
    exact ⟨ne_one_of_last_eq_one hcfg hinit, last_eq_one_of_ne_one hcfg hwf hvalid⟩

end Sys2Proof.Safety
end

section
/-! PROOFS. The laws of the checksum (41_checksum.md R111 to R115), read off its closed form: what replacing one data
byte does to the two sums, and what the validator compares. -/

namespace Sys2Proof.Safety

open Sys2Proof.Machine

/-- Settles O36, by induction on the data from any pair of accumulators. -/
theorem fletcherEqualsClosedForm : Obligations.FletcherEqualsClosedForm := fletcher16_eq

/-- Settles O38: both accumulators fit a byte, so the 16-bit comparison is one of each byte. -/
theorem validatorComparesBothBytes : Obligations.ValidatorComparesBothBytes := fun _ => checksumOk_iff_checksumMatches

/-! ### The byte 0xFF -/

theorem ofNat_mod_255_ne_ff (n : Nat) : BitVec.ofNat 8 (n % 255) ≠ 0xFF#8 := by
  rw [Ne, ← BitVec.toNat_inj, BitVec.toNat_ofNat, BitVec.toNat_ofNat]
  omega

/-- Settles O37: a remainder modulo 255 is not 255, and neither is the checksum byte that holds it. -/
theorem checksumBytesAreNeverFF : Obligations.ChecksumBytesAreNeverFF := by
  constructor
  · intro data
    rw [fletcher16_eq]
    exact ⟨Nat.le_of_lt_succ (Nat.mod_lt _ (by decide)), Nat.le_of_lt_succ (Nat.mod_lt _ (by decide))⟩
  · intro w hlen hff
    rw [← Bool.not_eq_true, checksumOk_iff_checksumMatches hlen]
    rintro ⟨h18, h19⟩
    rcases hff with hff | hff
    · exact ofNat_mod_255_ne_ff _ (Option.some.inj (h18.symm.trans hff))
    · exact ofNat_mod_255_ne_ff _ (Option.some.inj (h19.symm.trans hff))

/-! ### Replacing a data byte -/

section
variable {data : List Byte} {j : Nat} {b : Byte} (hb : data[j]? = some b) (b' : Byte)
include hb

theorem sumBytes_set : (sumBytes (data.set j b') : Int) = sumBytes data + (b'.toNat - b.toNat) := by
  induction data generalizing j with
  | nil => cases hb
  | cons a as ih =>
    cases j with
    | zero =>
      cases hb
      rw [List.set_cons_zero, sumBytes_cons, sumBytes_cons]
      omega
    | succ j =>
      have hrest := ih hb
      rw [List.set_cons_succ, sumBytes_cons, sumBytes_cons]
      omega

/-- The byte at offset `j` is weighted by the bytes from it on. -/
theorem weightedSum_set : (weightedSum (data.set j b') : Int) =
    weightedSum data + ((data.length : Int) - j) * (b'.toNat - b.toNat) := by
  induction data generalizing j with
  | nil => cases hb
  | cons a as ih =>
    cases j with
    | zero =>
      cases hb
      rw [List.set_cons_zero, weightedSum_cons, weightedSum_cons, List.length_cons]
      push_cast
      ring
    | succ j =>
      rw [List.set_cons_succ, weightedSum_cons, weightedSum_cons, List.length_cons, List.length_set]
      push_cast
      rw [ih hb]
      ring

end

/-- Two bytes agree modulo 255 exactly when they are the same or the two representatives of 0. -/
theorem dvd_255_sub_iff (b b' : Byte) : (255 : Int) ∣ (b'.toNat : Int) - b.toNat ↔
    b' = b ∨ (b = 0x00#8 ∧ b' = 0xFF#8) ∨ (b = 0xFF#8 ∧ b' = 0x00#8) := by
  have hb := b.isLt
  have hb' := b'.isLt
  simp only [← BitVec.toNat_inj, BitVec.toNat_ofNat]
  omega

theorem mod_255_eq_iff_dvd {m n : Nat} {d : Int} (h : (m : Int) = n + d) : m % 255 = n % 255 ↔ (255 : Int) ∣ d := by
  omega

/-- Settles O39: `c0` moves by the difference of the bytes and `c1` by a multiple of it, so `c0` alone decides. -/
theorem singleByteDetectionLaw : Obligations.SingleByteDetectionLaw := by
  intro data j b b' _ hb
  rw [fletcher16_eq, fletcher16_eq, Prod.mk.injEq, mod_255_eq_iff_dvd (sumBytes_set hb b'),
    mod_255_eq_iff_dvd (weightedSum_set hb b'), ← dvd_255_sub_iff, and_iff_left_of_imp]
  exact fun hd => hd.mul_left _

/-! ### Swaps -/

section
variable {data : List Byte} {j k : Nat} {x y : Byte} (hjk : j < k) (hx : data[j]? = some x) (hy : data[k]? = some y)
include hjk hx hy

theorem sumBytes_swap : sumBytes ((data.set j y).set k x) = sumBytes data := by
  have hyk : (data.set j y)[k]? = some y := (List.getElem?_set_ne hjk.ne).trans hy
  rw [← Int.natCast_inj, sumBytes_set hyk x, sumBytes_set hx y]
  ring

theorem weightedSum_swap : (weightedSum ((data.set j y).set k x) : Int) =
    weightedSum data + ((k : Int) - j) * (y.toNat - x.toNat) := by
  have hyk : (data.set j y)[k]? = some y := (List.getElem?_set_ne hjk.ne).trans hy
  rw [weightedSum_set hyk x, weightedSum_set hx y, List.length_set]
  ring

end

/-- Exchanging the checksum bytes of a matching window leaves its data, so both orders match only for equal bytes. -/
theorem checksumMatches_swap_iff {w : List Byte} {x y : Byte} (hlen : w.length = 22) (hx : w[18]? = some x)
    (hy : w[19]? = some y) (h : ChecksumMatches w) : ChecksumMatches ((w.set 18 y).set 19 x) ↔ x = y := by
  have htake : ((w.set 18 y).set 19 x).take 18 = w.take 18 := by
    rw [List.take_set_of_le (by decide), List.take_set_of_le (by decide)]
  have h18 : ((w.set 18 y).set 19 x)[18]? = some y := by simp [hlen]
  have h19 : ((w.set 18 y).set 19 x)[19]? = some x := by simp [hlen]
  obtain ⟨hc0, hc1⟩ := h
  rw [ChecksumMatches, htake, h18, h19, ← hc0, ← hc1, hx, hy, Option.some_inj, Option.some_inj, eq_comm, and_self]

/-- Settles O40: a swap is two replacements for the data bytes, and keeps the data for the checksum bytes. -/
theorem swapLaws : Obligations.SwapLaws := by
  constructor
  · intro data j k x y _ hjk hx hy
    rw [fletcher16_eq, fletcher16_eq, sumBytes_swap hjk hx hy]
    refine ⟨rfl, ?_⟩
    rw [Int.natCast_emod, weightedSum_swap hjk hx hy, Int.natCast_emod, Nat.cast_ofNat, Int.emod_emod_of_dvd _ dvd_rfl,
      Int.emod_add_emod]
  · intro w x y hlen hx hy hok
    rw [checksumOk_iff_checksumMatches (by simp [hlen]),
      checksumMatches_swap_iff hlen hx hy ((checksumOk_iff_checksumMatches hlen).mp hok)]

end Sys2Proof.Safety
end

section
/-! PROOFS. binary32 patterns of non-negative values are ordered as their values are, and rounding keeps the order
(00_scope.md R8). -/

namespace Sys2Proof.Machine

/-! ### The order of the patterns -/

/-- The pattern without its sign bit, cut into the exponent and the fraction. -/
theorem magUnits_eq (p : DWord) :
    magUnits p = if p.toNat % 2 ^ 31 / 8388608 = 0 then p.toNat % 2 ^ 31 % 8388608
      else (8388608 + p.toNat % 2 ^ 31 % 8388608) * 2 ^ (p.toNat % 2 ^ 31 / 8388608 - 1) := by
  have he : (p.extractLsb' 23 8).toNat = p.toNat % 2 ^ 31 / 8388608 := by
    rw [BitVec.extractLsb'_toNat, Nat.shiftRight_eq_div_pow]
    omega
  have hf : (p.extractLsb' 0 23).toNat = p.toNat % 2 ^ 31 % 8388608 := by
    rw [BitVec.extractLsb'_toNat, Nat.shiftRight_zero]
    omega
  rw [magUnits, he, hf]
  rfl

/-- A larger pattern has a larger fraction in the same binade, or lies in a later one. -/
theorem magUnits_lt_of_toNat_lt {p q : DWord} (h : p.toNat % 2 ^ 31 < q.toNat % 2 ^ 31) : magUnits p < magUnits q := by
  rw [magUnits_eq, magUnits_eq]
  generalize p.toNat % 2 ^ 31 = v, q.toNat % 2 ^ 31 = v' at *
  have hf : v % 8388608 < 8388608 := Nat.mod_lt _ (by decide)
  have hlex : v / 8388608 < v' / 8388608 ∨ v / 8388608 = v' / 8388608 ∧ v % 8388608 < v' % 8388608 := by omega
  generalize v / 8388608 = e, v % 8388608 = f, v' / 8388608 = e', v' % 8388608 = f' at *
  rcases hlex with he | ⟨rfl, hff⟩
  · have hlater : 8388608 * 2 ^ (e' - 1) ≤ (8388608 + f') * 2 ^ (e' - 1) := Nat.mul_le_mul_right _ (Nat.le_add_right ..)
    rw [if_neg (Nat.ne_zero_of_lt he)]
    refine lt_of_lt_of_le ?_ hlater
    split
    · exact hf.trans_le (Nat.le_mul_of_pos_right _ (by positivity))
    · calc (8388608 + f) * 2 ^ (e - 1) < 8388608 * 2 * 2 ^ (e - 1) := by gcongr; omega
        _ = 8388608 * 2 ^ (e - 1 + 1) := by ring
        _ ≤ 8388608 * 2 ^ (e' - 1) := by gcongr <;> omega
  · split
    · exact hff
    · gcongr

theorem magUnits_le_iff {p q : DWord} : magUnits p ≤ magUnits q ↔ p.toNat % 2 ^ 31 ≤ q.toNat % 2 ^ 31 := by
  constructor
  · exact fun h => not_lt.mp fun hlt => (magUnits_lt_of_toNat_lt hlt).not_ge h
  · intro h
    rcases h.lt_or_eq with hlt | heq
    · exact (magUnits_lt_of_toNat_lt hlt).le
    · rw [magUnits_eq, magUnits_eq, heq]

theorem toNat_mod_of_msb_eq_false {p : DWord} (h : p.msb = false) : p.toNat % 2 ^ 31 = p.toNat := by
  have hlt : 2 * p.toNat < 2 ^ 32 := BitVec.msb_eq_false_iff_two_mul_lt.mp h
  exact Nat.mod_eq_of_lt (by omega)

theorem val32_le_iff {p q : DWord} (hp : p.msb = false) (hq : q.msb = false) :
    val32 p ≤ val32 q ↔ p.toNat ≤ q.toNat := by
  have hU : (0 : ℚ) < unitScale := by unfold unitScale; positivity
  rw [val32, val32, div_le_div_iff_of_pos_right hU, units32_of_msb_eq_false hp, units32_of_msb_eq_false hq,
    Int.cast_natCast, Int.cast_natCast, Nat.cast_le, magUnits_le_iff, toNat_mod_of_msb_eq_false hp,
    toNat_mod_of_msb_eq_false hq]

/-! ### The order of the rounded quotients -/

section
variable {n d n' d' : Nat} (hd : 0 < d) (hd' : 0 < d') (h : n * d' ≤ n' * d)
include hd hd' h

/-- Were the smaller quotient rounded to more, both would be ties between the same two integers, and both results even. -/
theorem roundHalfEven_mono : roundHalfEven n d ≤ roundHalfEven n' d' := by
  obtain ⟨hlo, -, heven⟩ := roundHalfEven_error n d hd
  obtain ⟨-, hhi, heven'⟩ := roundHalfEven_error n' d' hd'
  generalize roundHalfEven n d = m, roundHalfEven n' d' = m' at *
  by_contra hgt
  have hm : d * d' * (m' + 1) ≤ d * d' * m := Nat.mul_le_mul_left _ (by omega)
  have h1 : d' * (2 * d * m) ≤ d' * (2 * n + d) := Nat.mul_le_mul_left _ hlo
  have h2 : d * (2 * n') ≤ d * (2 * d' * m' + d') := Nat.mul_le_mul_left _ hhi
  have hup : 2 * d * m = 2 * n + d := Nat.eq_of_mul_eq_mul_left hd' (by nlinarith)
  have hdown : 2 * n' = 2 * d' * m' + d' := Nat.eq_of_mul_eq_mul_left hd (by nlinarith)
  have hnext : m = m' + 1 := Nat.eq_of_mul_eq_mul_left (Nat.mul_pos hd hd') (by nlinarith)
  have := heven (.inl hup)
  have := heven' (.inr hdown)
  omega

theorem rnExp_mono : rnExp n d ≤ rnExp n' d' := by
  have hdiv : n * unitScale / d ≤ n' * unitScale / d' := by
    rw [Nat.le_div_iff_mul_le hd']
    refine Nat.le_of_mul_le_mul_left ?_ hd
    calc d * (n * unitScale / d * d') = n * unitScale / d * d * d' := by ring
      _ ≤ n * unitScale * d' := Nat.mul_le_mul_right _ (Nat.div_mul_le_self _ _)
      _ = n * d' * unitScale := by ring
      _ ≤ n' * d * unitScale := Nat.mul_le_mul_right _ h
      _ = d * (n' * unitScale) := by ring
  rw [rnExp, rnExp, Nat.log2_eq_log_two, Nat.log2_eq_log_two]
  exact Nat.sub_le_sub_right (Nat.log_mono_right hdiv) 23

/-- The smaller quotient lies in an earlier binade, or in the same one with a smaller rounded significand. -/
theorem rnExp_lt_or_rnSig_le :
    rnExp n d < rnExp n' d' ∨ rnExp n d = rnExp n' d' ∧ rnSig n d ≤ rnSig n' d' := by
  refine (rnExp_mono hd hd' h).lt_or_eq.imp_right fun he => ⟨he, ?_⟩
  rw [rnSig, rnSig, he]
  refine roundHalfEven_mono (by positivity) (by positivity) ?_
  calc n * unitScale * (d' * 2 ^ rnExp n' d') = n * d' * (unitScale * 2 ^ rnExp n' d') := by ring
    _ ≤ n' * d * (unitScale * 2 ^ rnExp n' d') := Nat.mul_le_mul_right _ h
    _ = n' * unitScale * (d * 2 ^ rnExp n' d') := by ring

/-- A carry out of a binade reaches at most the first pattern of the next one. -/
theorem rnMag_mono : rnMag n d ≤ rnMag n' d' := by
  rw [rnMag_eq, rnMag_eq]
  rcases rnExp_lt_or_rnSig_le hd hd' h with hlt | ⟨heq, hsig⟩
  · have hcarry := rnSig_le hd (n := n)
    have hfirst := le_rnSig_of_rnExp_ne_zero hd' (n := n') (by omega)
    omega
  · omega

end

/-! ### The pattern of a rounded quotient -/

theorem toNat_rn32_mod {num : Int} {den : Nat} (h : rnMag num.natAbs den < 2 ^ 31) :
    (rn32 num den).toNat % 2 ^ 31 = rnMag num.natAbs den := by
  unfold rn32
  split
  · have hsign : (0x80000000#32 : DWord).toNat % 2 ^ 31 = 0 := rfl
    rw [BitVec.toNat_or, Nat.or_mod_two_pow, hsign, Nat.zero_or, BitVec.toNat_ofNat]
    omega
  · rw [BitVec.toNat_ofNat]
    omega

end Sys2Proof.Machine
end

section
/-! PROOFS. The ranges of the floats a decode commits (42_field_decoder.md R146), from the rounded quotients at the ends
of the raw fields' ranges. -/

namespace Sys2Proof.Machine

open Sys2Proof.Safety

/-! ### Bounds on a rounded quotient -/

/-- The pattern of a quotient between two others lies between their patterns. -/
theorem rn32_between {num : Int} {den n d n' d' : Nat} (hden : 0 < den) (hd : 0 < d) (hd' : 0 < d')
    (hlo : n * den ≤ num.natAbs * d) (hhi : num.natAbs * d' ≤ n' * den) (hmax : rnMag n' d' < 2 ^ 31) :
    rnMag n d ≤ (rn32 num den).toNat % 2 ^ 31 ∧ (rn32 num den).toNat % 2 ^ 31 ≤ rnMag n' d' := by
  have hle : rnMag num.natAbs den ≤ rnMag n' d' := rnMag_mono hden hd' hhi
  rw [toNat_rn32_mod (hle.trans_lt hmax)]
  exact ⟨rnMag_mono hd hden hlo, hle⟩

/-- An unsigned 16-bit field over a constant is +0.0, or its pattern lies between those of 1 and 65535. -/
theorem rn32_natCast_range {raw den lo hi : Nat} (hden : 0 < den) (hlo : rnMag 1 den = lo) (hhi : rnMag 65535 den = hi)
    (hmax : hi < 2 ^ 31) (hraw : raw < 65536) :
    rn32 raw den = 0#32 ∨ (lo ≤ (rn32 raw den).toNat ∧ (rn32 raw den).toNat ≤ hi) := by
  rcases Nat.eq_zero_or_pos raw with rfl | hpos
  · exact .inl (rn32_zero _)
  · have hmsb : (rn32 raw den).msb = false := msb_rn32_natCast hden (by omega)
    rw [← toNat_mod_of_msb_eq_false hmsb, ← hlo, ← hhi]
    exact .inr (rn32_between hden hden hden (Nat.mul_le_mul_right _ (by rwa [Int.natAbs_natCast]))
      (Nat.mul_le_mul_right _ (by rw [Int.natAbs_natCast]; omega)) (by rwa [hhi]))

/-! ### Volts and throttle -/

theorem voltsOf_range {raw : Nat} (h : raw < 65536) :
    voltsOf raw = 0#32 ∨ (0x3C23D70A ≤ (voltsOf raw).toNat ∧ (voltsOf raw).toNat ≤ 0x4423D666) :=
  rn32_natCast_range (den := 100) (by decide) (by decide) (by decide) (by decide) h

theorem throttleOf_range {raw : Nat} (h : raw < 65536) :
    throttleOf raw = 0#32 ∨ (0x38D1B717 ≤ (throttleOf raw).toNat ∧ (throttleOf raw).toNat ≤ 0x40D1B646) :=
  rn32_natCast_range (den := 10000) (by decide) (by decide) (by decide) (by decide) h

/-! ### Amps -/

theorem ampsOf_zero : ampsOf 0 = 0#32 := rn32_zero _

theorem msb_ampsOf_of_pos {raw : Int} (hpos : 0 < raw) (h : raw ≤ 32768) : (ampsOf raw).msb = false := by
  lift raw to Nat using hpos.le
  exact msb_rn32_natCast (by decide) (by simp only [Config.bitsPerAmpDen, Config.bitsPerAmpNum]; omega)

theorem ampsOf_neg {raw : Int} (hpos : 0 < raw) : ampsOf (-raw) = ampsOf raw ||| 0x80000000#32 := by
  have hneg : 2 * -raw < 0 := by omega
  rw [ampsOf_eq, ampsOf_eq, rn32_of_neg hneg, BitVec.or_comm, rn32, if_neg (by omega), Int.mul_neg, Int.natAbs_neg]

/-- Settles O44: the sign is outside the rounding of the magnitude. -/
theorem ampsIsSymmetric : Obligations.AmpsIsSymmetric := fun _ hpos hle => ⟨ampsOf_neg hpos, msb_ampsOf_of_pos hpos hle⟩

section
variable {raw : Int} (hne : raw ≠ 0) (h : raw.natAbs ≤ 32768)
include hne h

theorem ampsOf_mag_range :
    0x3DA3D70A ≤ (ampsOf raw).toNat % 2 ^ 31 ∧ (ampsOf raw).toNat % 2 ^ 31 ≤ 0x4523D70A := by
  have hmin : rnMag 2 25 = 0x3DA3D70A := by decide
  have hmax : rnMag 65536 25 = 0x4523D70A := by decide
  rw [ampsOf_eq, ← hmin, ← hmax]
  exact rn32_between (by decide) (by decide) (by decide) (by omega) (by omega) (by rw [hmax]; decide)

theorem magUnits_ampsOf_range :
    magUnits 0x3DA3D70A#32 ≤ magUnits (ampsOf raw) ∧ magUnits (ampsOf raw) ≤ magUnits 0x4523D70A#32 := by
  rw [magUnits_le_iff, magUnits_le_iff]
  exact ampsOf_mag_range hne h

end

/-- A positive current is at most 32767, and a negative one sets the sign bit. -/
theorem ampsOf_toNat_le_of_msb_eq_false {raw : Int} (h : raw ≤ 32767) (hmsb : (ampsOf raw).msb = false) :
    (ampsOf raw).toNat ≤ 0x4523D5C3 := by
  have hmax : rnMag 65534 25 = 0x4523D5C3 := by decide
  rcases lt_or_ge raw 0 with hneg | hpos
  · rw [ampsOf_eq, rn32_of_neg (by omega), msb_signBit_or] at hmsb
    cases hmsb
  · rw [← toNat_mod_of_msb_eq_false hmsb, ampsOf_eq, ← hmax]
    exact (rn32_between (n := 0) (d := 1) (by decide) (by decide) (by decide) (by omega) (by omega)
      (by rw [hmax]; decide)).2

theorem ampsOf_range {raw : Int} (h : raw.natAbs ≤ 32768) (hle : raw ≤ 32767) :
    ampsOf raw = 0#32 ∨ (0x3DA3D70A ≤ (ampsOf raw).toNat % 2 ^ 31 ∧ (ampsOf raw).toNat % 2 ^ 31 ≤ 0x4523D70A ∧
      ((ampsOf raw).msb = false → (ampsOf raw).toNat ≤ 0x4523D5C3)) := by
  rcases eq_or_ne raw 0 with rfl | hne
  · exact .inl ampsOf_zero
  · obtain ⟨hmin, hmax⟩ := ampsOf_mag_range hne h
    exact .inr ⟨hmin, hmax, ampsOf_toNat_le_of_msb_eq_false hle⟩

/-! ### Phase current -/

theorem phaseAmpsOf_zero (duty : Nat) : phaseAmpsOf 0#32 duty = 0#32 := by
  have hunits : units32 0#32 = 0 := by decide
  rw [phaseAmpsOf_eq, hunits, zero_mul, rn32_zero, ite_self]

theorem phaseAmpsOf_mag_range {raw : Int} {duty : Nat} (hne : raw ≠ 0) (h : raw.natAbs ≤ 32768) (hpos : 0 < duty)
    (hduty : duty < 65536) :
    0x3C4800C8 ≤ (phaseAmpsOf (ampsOf raw) duty).toNat % 2 ^ 31 ∧
    (phaseAmpsOf (ampsOf raw) duty).toNat % 2 ^ 31 ≤ 0x4BC80000 := by
  have hmin : rnMag (magUnits 0x3DA3D70A#32 * 10000) (unitScale * 65535) = 0x3C4800C8 := by decide
  have hmax : rnMag (magUnits 0x4523D70A#32 * 10000) (unitScale * 1) = 0x4BC80000 := by decide
  have hU : 0 < unitScale := by unfold unitScale; positivity
  obtain ⟨hlo, hhi⟩ := magUnits_ampsOf_range hne h
  rw [phaseAmpsOf_eq, if_neg hpos.ne', ← hmin, ← hmax]
  have hnum : (units32 (ampsOf raw) * 10000).natAbs = magUnits (ampsOf raw) * 10000 := by
    rw [Int.natAbs_mul, natAbs_units32]
    rfl
  refine rn32_between (by positivity) (by positivity) (by positivity) ?_ ?_ (by rw [hmax]; decide)
  · rw [hnum]
    gcongr
    omega
  · rw [hnum]
    gcongr
    omega

theorem phaseAmpsOf_range {raw : Int} {duty : Nat} (h : raw.natAbs ≤ 32768) (hduty : duty < 65536) :
    phaseAmpsOf (ampsOf raw) duty = 0#32 ∨ (0x3C4800C8 ≤ (phaseAmpsOf (ampsOf raw) duty).toNat % 2 ^ 31 ∧
      (phaseAmpsOf (ampsOf raw) duty).toNat % 2 ^ 31 ≤ 0x4BC80000) := by
  rcases Nat.eq_zero_or_pos duty with rfl | hpos
  · exact .inl rfl
  · rcases eq_or_ne raw 0 with rfl | hne
    · rw [ampsOf_zero, phaseAmpsOf_zero]
      exact .inl rfl
    · exact .inr (phaseAmpsOf_mag_range hne h hpos hduty)

/-- Settles O45: either zero gives +0.0 (R142), and otherwise the magnitude is at least the smallest one of R146. -/
theorem phaseAmpsZeroLaw : Obligations.PhaseAmpsZeroLaw := by
  intro raw duty hlo hhi hduty
  constructor
  · intro hzero
    by_contra! hne
    obtain ⟨hd, hraw⟩ := hne
    have := (phaseAmpsOf_mag_range hraw (by omega) (Nat.pos_of_ne_zero hd) hduty).1
    rw [hzero] at this
    exact absurd this (by decide)
  · rintro (rfl | rfl)
    · rfl
    · rw [ampsOf_zero, phaseAmpsOf_zero]

/-! ### All floats of a decode -/

theorem rawFields_amps_le (w : List Byte) : (rawFields w).amps ≤ 32767 := by
  have h : memRead w 4 2 < 65536 := memRead_lt w 4 2
  change signed16 (memRead w 4 2) ≤ 32767
  unfold signed16
  split <;> omega

theorem rawFields_motorDuty_lt (w : List Byte) : (rawFields w).motorDuty < 65536 := memRead_lt w 14 2

/-- Settles O43, register by register. -/
theorem decodedFloatsAreInRange : Obligations.DecodedFloatsAreInRange := by
  intro w p t
  exact ⟨voltsOf_range (rawFields_voltage_lt w), tempLut_toNat_le _,
    ampsOf_range (natAbs_rawFields_amps_le w) (rawFields_amps_le w), throttleOf_range (rawFields_throttle_lt w),
    phaseAmpsOf_range (natAbs_rawFields_amps_le w) (rawFields_motorDuty_lt w)⟩

end Sys2Proof.Machine
end

section
/-! PROOFS. The temperature table and the reference function it conforms to (42_field_decoder.md R136, R137). -/

namespace Sys2Proof.Machine

theorem val32_zero : val32 0#32 = 0 := by
  have hunits : units32 0#32 = 0 := by decide
  rw [val32, hunits, Int.cast_zero, zero_div]

/-- 0x43480000 is 200.0, T_MAX (R136). -/
theorem val32_tMax : val32 0x43480000#32 = 200 := by
  have hunits : units32 0x43480000#32 = 200 * unitScale := by decide
  have hU : (unitScale : ℚ) ≠ 0 := by unfold unitScale; positivity
  rw [val32, hunits]
  push_cast
  exact mul_div_cancel_right₀ _ hU

/-! ### The block's own table -/

theorem msb_tempLut (c : Word) : (tempLut c).msb = false := by
  have h := tempLut_toNat_le c
  rw [Config.tMaxPattern] at h
  rw [BitVec.msb_eq_false_iff_two_mul_lt]
  omega

/-- Settles O47: the values of the table's patterns are ordered as the patterns. -/
theorem tempLutHasRequiredValues : Obligations.TempLutHasRequiredValues := by
  refine ⟨tempLut_of_out_of_domain _ (.inl rfl), fun c h => tempLut_of_out_of_domain c (.inr h), fun c => ?_⟩
  refine ⟨tempLut_toNat_le c, ?_, ?_⟩
  · rw [← val32_zero]
    exact (val32_le_iff (by decide) (msb_tempLut c)).mpr (Nat.zero_le _)
  · rw [← val32_tMax]
    exact (val32_le_iff (msb_tempLut c) (by decide)).mpr (tempLut_toNat_le c)

/-! ### The reference function -/

theorem tRef_of_out_of_domain (th : Thermistor) {c : Word} (h : c = 0#16 ∨ 4096 ≤ c.toNat) : tRef th c = 0 := by
  unfold tRef
  rcases h with rfl | h
  · exact if_pos rfl
  · rw [if_pos (show Config.adcFs ≤ c.toNat from h), ite_self]

/-- Case (e) of R136. -/
theorem tRef_of_inv_pos {th : Thermistor} {c : Word} (h0 : c ≠ 0#16) (h : c.toNat < 4096)
    (hinv : 0 < tempInv th c.toNat) : tRef th c = min (max (1 / tempInv th c.toNat - 273.15) 0) 200 := by
  unfold tRef
  rw [if_neg h0, if_neg (show ¬ Config.adcFs ≤ c.toNat from not_le.mpr h)]
  dsimp only
  rw [if_neg hinv.not_gt, if_neg hinv.ne']

theorem tRef_range (th : Thermistor) (c : Word) : 0 ≤ tRef th c ∧ tRef th c ≤ 200 := by
  have h200 : (0 : ℝ) ≤ 200 := by norm_num
  unfold tRef
  dsimp only
  split_ifs
  · exact ⟨le_rfl, h200⟩
  · exact ⟨le_rfl, h200⟩
  · exact ⟨le_rfl, h200⟩
  · exact ⟨h200, le_rfl⟩
  · exact ⟨le_min (le_max_right ..) h200, min_le_right ..⟩

/-- At half scale the thermistor has the series resistance, so a nominal one is at its nominal temperature. -/
theorem tempInv_half_scale {th : Thermistor} (h : th.rSeries = th.rNominal) :
    tempInv th 2048 = 1 / (th.tNominalC + 273.15) := by
  have hdivider : (4096 / 2048 - 1 : ℝ) = 1 := by norm_num
  rw [tempInv, hdivider, div_one, h, div_self th.rNominal_pos.ne', Real.log_one, zero_div, zero_add]

/-- Settles O49: the clamp gives the range, and is idle at the nominal temperature. -/
theorem referenceTemperatureRangeAndNominal : Obligations.ReferenceTemperatureRangeAndNominal := by
  refine fun th => ⟨tRef_range th, fun hseries hlo hhi => ?_⟩
  have hinv : tempInv th (2048#16 : Word).toNat = 1 / (th.tNominalC + 273.15) := tempInv_half_scale hseries
  have hpos : 0 < th.tNominalC + 273.15 := by linarith
  rw [tRef_of_inv_pos (by decide) (by decide) (by rw [hinv]; positivity), hinv, one_div_one_div, add_sub_cancel_right,
    max_eq_left hlo, min_eq_left hhi]

/-- A larger code is a larger resistance of the thermistor, and so a larger inverse temperature. -/
theorem tempInv_mono (th : Thermistor) {a b : ℝ} (ha : 0 < a) (hab : a ≤ b) (hb : b < 4096) :
    tempInv th a ≤ tempInv th b := by
  have hbpos : 0 < b := ha.trans_le hab
  have hxb : 0 < 4096 / b - 1 := by rw [sub_pos, one_lt_div hbpos]; exact hb
  have hx : 4096 / b - 1 ≤ 4096 / a - 1 := by gcongr
  have hxa : 0 < 4096 / a - 1 := hxb.trans_le hx
  have hs := th.rSeries_pos
  have hn := th.rNominal_pos
  have hB := th.bCoeff_pos
  unfold tempInv
  dsimp only
  gcongr

/-- Settles O50: the inverse temperature grows with the code, and the clamp keeps the order. -/
theorem referenceTemperatureDoesNotIncrease : Obligations.ReferenceTemperatureDoesNotIncrease := by
  intro th c c' h0 hle hlt hinv
  have hc : 0 < c.toNat := Nat.pos_of_ne_zero fun h => h0 (BitVec.eq_of_toNat_eq h)
  have hmono : tempInv th c.toNat ≤ tempInv th c'.toNat :=
    tempInv_mono th (by exact_mod_cast hc) (by exact_mod_cast hle) (by exact_mod_cast hlt)
  have h0' : c' ≠ 0#16 := by
    rintro rfl
    exact absurd hle hc.not_ge
  rw [tRef_of_inv_pos h0 (hle.trans_lt hlt) hinv, tRef_of_inv_pos h0' hlt (hinv.trans_le hmono)]
  gcongr

/-! ### A conforming table -/

/-- A pattern's value bounds the rounding of what it bounds: rounded to more, `x` would be nearer to that value. -/
theorem IsRn32.toNat_le {x : ℝ} {p q : DWord} (h : IsRn32 x p) (hx : 0 ≤ x) (hfin : isFinite32 q = true)
    (hq : q.msb = false) (hxq : x ≤ val32 q) : p.toNat ≤ q.toNat := by
  obtain ⟨-, hnear, -, hsign⟩ := h
  have hle : (val32 p : ℝ) ≤ val32 q := by
    have hdist := hnear q hfin
    rw [abs_of_nonpos (sub_nonpos.mpr hxq)] at hdist
    have := neg_le_of_abs_le hdist
    linarith
  exact (val32_le_iff (hsign hx) hq).mp (by exact_mod_cast hle)

/-- Settles O48: the reference function is 0 outside its domain and at most 200, and both are values of patterns. -/
theorem conformingTableIsInRange : Obligations.ConformingTableIsInRange := by
  intro th lut hlut
  have hzero {c : Word} (h : c = 0#16 ∨ 4096 ≤ c.toNat) : lut c = 0#32 := by
    have hx : tRef th c ≤ val32 0#32 := by rw [tRef_of_out_of_domain th h, val32_zero, Rat.cast_zero]
    have hle := (hlut c).toNat_le (tRef_range th c).1 (by decide) (by decide) hx
    exact BitVec.eq_of_toNat_eq (Nat.le_zero.mp hle)
  refine ⟨hzero (.inl rfl), fun c h => hzero (.inr h), fun c => ?_⟩
  obtain ⟨hlo, hhi⟩ := tRef_range th c
  have hx : tRef th c ≤ val32 0x43480000#32 := by rwa [val32_tMax, Rat.cast_ofNat]
  exact (hlut c).toNat_le hlo (by decide) (by decide) hx

end Sys2Proof.Machine
end

section
/-! PROOFS. The accessors and the rpm register (42_field_decoder.md R140, R149 to R158). -/

namespace Sys2Proof.Machine

open Sys2Proof.Safety

/-- Settles O31: each accessor is the template of R149 on its register. -/
theorem accessorsReturnTheirRegisters : Obligations.AccessorsReturnTheirRegisters := by
  intro s hcfg
  have hanswer (v : DWord) := answer_of_configured s v hcfg
  rw [← zextByte_eq_ofNat]
  exact ⟨hanswer _, hanswer _, hanswer _, hanswer _, hanswer _, hanswer _, hanswer _, hanswer _, hanswer _⟩

/-- Settles O42: the quotient is no larger than the eRPM, so it fits the register. -/
theorem rpmIsTruncatedQuotient : Obligations.RpmIsTruncatedQuotient := by
  intro e p hp
  rw [rpmOf_of_ne_zero e hp, BitVec.toNat_ofNat]
  exact Nat.mod_eq_of_lt ((Nat.div_le_self _ _).trans_lt e.isLt)

end Sys2Proof.Machine
end

section
/-! PROOFS. The status flag commands (43_status_query.md R170 to R178). -/

namespace Sys2Proof.Machine

/-- The flag of R171 in arithmetic: bit `k` is the last binary digit of the status byte after `k` halvings. -/
theorem flagWord_eq (s : State) (k : Nat) :
    flagWord s k = if s.tel.status.toNat / 2 ^ k % 2 = 1 then 1#32 else 0#32 := by
  rw [flagWord, statusFlag, zextBit, BitVec.getLsbD, Nat.testBit_eq_decide_div_mod_eq]
  simp only [decide_eq_true_eq]

theorem flagWord_with_status (s : State) (st : Byte) (k : Nat) :
    flagWord { s with tel := { s.tel with status := st } } k = zextBit (st.getLsbD k) := rfl

/-- Masking a status byte with 0x3F keeps the bits the flag commands read (R178). -/
theorem getLsbD_and_flagMask (st : Byte) {k : Nat} (hk : k < 6) : (st &&& 0x3F#8).getLsbD k = st.getLsbD k := by
  have hmask : ∀ j < 6, (0x3F#8 : Byte).getLsbD j = true := by decide
  rw [BitVec.getLsbD_and, hmask k hk, Bool.and_true]

/-- Settles O32: each flag command is the template of R171 on its bit. -/
theorem flagCommandsTestTheirBits : Obligations.FlagCommandsTestTheirBits := by
  intro s hcfg bit
  have hanswer (k : Nat) : answer s (flagWord s k) = .next { s with rsp := some ⟨.ok, bit k⟩ } := by
    rw [answer_of_configured s _ hcfg, flagWord_eq]
  exact ⟨hanswer 0, hanswer 1, hanswer 2, hanswer 3, hanswer 4, hanswer 5⟩

/-- Every flag command answers with one of the bits 0 to 5, the same in every state (R172 to R177). -/
theorem exec_flagCommand {i : Instr}
    (hi : i ∈ [.isStarted, .isSaturated, .isOvertemp, .isOvervolt, .isUndervolt, .startErr]) :
    ∃ k < 6, ∀ s, exec i s = answer s (flagWord s k) := by
  simp only [List.mem_cons, List.not_mem_nil, or_false] at hi
  rcases hi with rfl | rfl | rfl | rfl | rfl | rfl
  · exact ⟨0, by decide, fun _ => rfl⟩
  · exact ⟨1, by decide, fun _ => rfl⟩
  · exact ⟨2, by decide, fun _ => rfl⟩
  · exact ⟨3, by decide, fun _ => rfl⟩
  · exact ⟨4, by decide, fun _ => rfl⟩
  · exact ⟨5, by decide, fun _ => rfl⟩

/-- The response of an accessor or flag command depends on its value and on CFG.configured only (R149). -/
theorem answer_rsp {s t : State} {v : DWord} (h : answer s v = .next t) :
    t.rsp = some (if s.cfg.configured then ⟨.ok, v⟩ else ⟨.errUnconfigured, 0#32⟩) := by
  rcases requireConfigured_cases h with ⟨hcfg, rfl⟩ | ⟨hcfg, rfl⟩
  · rw [hcfg, respond_rsp, if_pos rfl]
  · rw [hcfg, raise_rsp, if_neg Bool.false_ne_true]

/-- Settles O33: the bits the flag commands read pass the mask, and RD_STATUS extends the whole byte. -/
theorem flagsIgnoreHighStatusBits : Obligations.FlagsIgnoreHighStatusBits := by
  refine ⟨fun i s t t' st hi ht ht' => ?_, fun s hcfg => answer_of_configured s _ hcfg⟩
  obtain ⟨k, hk, hexec⟩ := exec_flagCommand hi
  rw [hexec, flagWord_with_status] at ht ht'
  rw [answer_rsp ht, answer_rsp ht', getLsbD_and_flagMask st hk]

end Sys2Proof.Machine
end

section
/-! PROOFS. The configuration commands and the word they keep (44_configuration.md R190 to R193, 10_state.md R23). -/

namespace Sys2Proof.Machine

/-! ### The configuration word -/

theorem getLsbD_zextByte {i : Nat} (h : i < 32) (b : Byte) : (zextByte b).getLsbD i = b.getLsbD i := by
  rw [zextByte, BitVec.zeroExtend, BitVec.getLsbD_setWidth, decide_eq_true h, Bool.true_and]

theorem getLsbD_zextBit (b : Bool) (i : Nat) : (zextBit b).getLsbD i = (decide (i = 0) && b) := by
  cases b <;> simp [zextBit, BitVec.getLsbD_one]

/-- The byte and the shifted bit of R23 do not overlap, so the word is its three fields side by side. -/
theorem cfgWord_eq_append (c : Cfg) : cfgWord c = 0#23 ++ (BitVec.ofBool c.configured ++ c.poleCount) := by
  apply BitVec.eq_of_getLsbD_eq
  intro i hi
  rw [BitVec.getLsbD_append, BitVec.getLsbD_append, BitVec.getLsbD_ofBool, cfgWord, BitVec.getLsbD_or,
    BitVec.getLsbD_shiftLeft, getLsbD_zextByte hi, getLsbD_zextBit]
  rcases lt_trichotomy i 8 with hpole | rfl | habove
  · have hbelow : i < 1 + 8 := by omega
    simp [hpole, hbelow]
  · simp
  · have hzeros : ¬ i < 1 + 8 := by omega
    have hbit : i - 8 ≠ 0 := by omega
    simp [hzeros, hbit, BitVec.getLsbD_of_ge c.poleCount i habove.le]

/-- Settles O19: the answer is the configuration word, and each field is one part of it. -/
theorem rdConfigReadsConfiguration : Obligations.RdConfigReadsConfiguration := by
  intro s
  refine ⟨cfgWord s.cfg, rfl, ?_⟩
  rw [cfgWord_eq_append]
  refine ⟨?_, ?_, BitVec.extractLsb'_append_eq_left⟩
  · rw [BitVec.extractLsb'_append_eq_of_add_le (by decide), BitVec.extractLsb'_append_eq_right]
  · rw [BitVec.getLsbD_append, BitVec.getLsbD_append]
    simp

/-! ### CONFIG -/

/-- Settles O20, along what a word can do: only a successful CONFIG constructs, and a PUSH keeps CFG. -/
theorem onlyConfigWritesConfiguration : Obligations.OnlyConfigWritesConfiguration := by
  intro w s t hrun hne
  rcases runWord_cases hrun with hsame | ⟨p, hdec, hp, rfl⟩ | ⟨-, -, rfl⟩ | ⟨b, -, -, rfl⟩
  · exact absurd (congrArg State.cfg hsame) hne
  · exact ⟨p, hdec, hp, rfl⟩
  · exact absurd rfl hne
  · exact absurd (pushByte_cfg ..) hne

/-- CONFIG's one check (R190, R191). -/
theorem exec_config (p : Byte) (s : State) :
    exec (.config p) s = .next (if p = 0#8 then raise s .errBadConfig else respond (construct s p) 0#32) := rfl

/-- Settles O17: the construction, answered with OK and data 0. -/
theorem configConstructsInstance : Obligations.ConfigConstructsInstance := by
  intro p s hp
  rw [exec_config, if_neg hp]
  rfl

/-- Settles O18: the check fails, and raising an error writes the response only. -/
theorem configZeroIsRefused : Obligations.ConfigZeroIsRefused := by
  intro s
  rw [exec_config, if_pos rfl]
  rfl

end Sys2Proof.Machine
end

section
/-! PROOFS. The error statuses and their order (60_exceptions.md R210 to R214). What a command reports is said once, for every
status: an error is raised on the state the command found. -/

namespace Sys2Proof.Safety

open Sys2Proof.Machine

/-! ### The unconfigured block -/

theorem needsConfigured_of_ne {i : Instr} (hconfig : ∀ p, i ≠ .config p) (hrdConfig : i ≠ .rdConfig) :
    needsConfigured i = true := by
  cases i with
  | config p => exact absurd rfl (hconfig p)
  | rdConfig => exact absurd rfl hrdConfig
  | _ => rfl

theorem exec_eq_requireConfigured {i : Instr} (h : needsConfigured i = true) (s : State) :
    ∃ effect, exec i s = requireConfigured s effect := by
  cases i with
  | config p => cases h
  | rdConfig => cases h
  | _ => exact ⟨_, rfl⟩

theorem exec_of_unconfigured {i : Instr} {s : State} (h : needsConfigured i = true) (hcfg : s.cfg.configured = false) :
    exec i s = .next (raise s .errUnconfigured) := by
  obtain ⟨effect, he⟩ := exec_eq_requireConfigured h s
  rw [he, requireConfigured_of_unconfigured s effect hcfg]

/-- Settles O13: the command is an effect that needs a configured block. -/
theorem unconfiguredBlockRefusesCommands : Obligations.UnconfiguredBlockRefusesCommands :=
  fun _ _ hconfig hrdConfig hcfg => exec_of_unconfigured (needsConfigured_of_ne hconfig hrdConfig) hcfg

/-! ### What a command reports -/

/-- `t` reports the status `e` of a command run on `s`: it is `s` with the error raised, or `e` is OK and any data is
answered (R211). -/
def Reports (s : State) (e : RspStatus) (t : State) : Prop := t = raise s e ∨ (e = .ok ∧ ∃ d, t.rsp = some ⟨.ok, d⟩)

theorem Reports.rsp {s t : State} {e : RspStatus} (h : Reports s e t) : ∃ d, t.rsp = some ⟨e, d⟩ := by
  rcases h with rfl | ⟨rfl, hd⟩
  · exact ⟨_, raise_rsp s e⟩
  · exact hd

theorem Reports.eq_raise {s t : State} {e : RspStatus} (h : Reports s e t) (he : e ≠ .ok) : t = raise s e :=
  h.resolve_right fun hok => he hok.1

/-- The status of a command that the block may run: its own check (R214). -/
def ownStatus (s : State) : Instr → RspStatus
  | .config p => if p = 0#8 then .errBadConfig else .ok
  | .bufRead k => if s.win.length ≤ k.toNat then .errRange else .ok
  | _ => .ok

theorem expectedStatus_of_decode {w : Word} {i : Instr} (h : decode w = .ok i) (s : State) :
    expectedStatus w s =
      if needsConfigured i ∧ s.cfg.configured = false then .errUnconfigured else ownStatus s i := by
  rw [expectedStatus, h]
  cases i <;> rfl

/-- All three results of a PUSH are answered OK (R88). -/
theorem pushByte_answers_ok (b : Byte) (now : DWord) (s : State) : ∃ d, (pushByte b now s).rsp = some ⟨.ok, d⟩ := by
  rcases pushByte_cases b now s with ⟨-, -, he⟩ | ⟨-, -, he⟩ | ⟨-, he⟩ <;> rw [he] <;> exact ⟨_, rfl⟩

theorem exec_reports_ownStatus {i : Instr} {s : State} (hcfg : needsConfigured i = true → s.cfg.configured = true) :
    ∃ t, exec i s = .next t ∧ Reports s (ownStatus s i) t := by
  cases i with
  | config p =>
    refine ⟨_, exec_config p s, ?_⟩
    by_cases hp : p = 0#8 <;> simp [Reports, ownStatus, hp]
  | rdConfig => exact ⟨_, rfl, .inr ⟨rfl, _, rfl⟩⟩
  | push b =>
    exact ⟨_, exec_push_of_configured b (hcfg rfl), .inr ⟨rfl, pushByte_answers_ok b s.port.nowMs s⟩⟩
  | bufRead k =>
    refine ⟨_, exec_bufRead_of_configured k (hcfg rfl), ?_⟩
    by_cases hk : k.toNat < s.win.length
    · simp [Reports, ownStatus, hk]
    · simp [Reports, ownStatus, Nat.not_lt.mp hk]
  | _ => exact ⟨_, requireConfigured_of_configured s _ (hcfg rfl), .inr ⟨rfl, _, rfl⟩⟩

/-- The order of R214: the decoder's refusal, then the missing configuration, then the command's own check. -/
theorem runWord_reports_expectedStatus (w : Word) (s : State) :
    ∃ t, runWord w s = .next t ∧ Reports s (expectedStatus w s) t := by
  cases hdec : decode w with
  | error e => exact ⟨raise s .errIllegal, by simp [runWord, hdec], .inl (by simp [expectedStatus, hdec])⟩
  | ok i =>
    rw [runWord_of_decode hdec, expectedStatus_of_decode hdec]
    by_cases hrefused : needsConfigured i = true ∧ s.cfg.configured = false
    · rw [if_pos hrefused]
      exact ⟨_, exec_of_unconfigured hrefused.1 hrefused.2, .inl rfl⟩
    · rw [if_neg hrefused]
      exact exec_reports_ownStatus (by simpa using hrefused)

/-- Settles O15: what a word reports carries its status in the response. -/
theorem statusFollowsErrorPriority : Obligations.StatusFollowsErrorPriority := by
  intro w s
  obtain ⟨t, hrun, hreports⟩ := runWord_reports_expectedStatus w s
  obtain ⟨d, hd⟩ := hreports.rsp
  exact ⟨t, d, hrun, hd⟩

/-- Settles O14: a status other than OK is reported by raising it. -/
theorem errorsWriteNoState : Obligations.ErrorsWriteNoState := by
  intro w s t e d hrun hrsp he
  obtain ⟨u, hrun', hreports⟩ := runWord_reports_expectedStatus w s
  obtain rfl : t = u := Host.Outcome.next.inj (hrun.symm.trans hrun')
  obtain ⟨d', hrsp'⟩ := hreports.rsp
  obtain ⟨hstatus, -⟩ := Response.mk.inj (Option.some.inj (hrsp.symm.trans hrsp'))
  rw [← hstatus] at hreports
  have hraised : t = raise s e := hreports.eq_raise he
  have hdata : (0#32 : DWord) = d := by simpa [hraised] using hrsp
  exact ⟨hdata.symm, hraised⟩

end Sys2Proof.Safety
end

section
/-! PROOFS. The port events: none stops the block, and an idle one moves the host's lines only (60_exceptions.md R212, R230,
70_reset_and_hazards.md R240, R251). -/

namespace Sys2Proof.Machine

theorem step_of_reset {s : State} (hrst : s.port.rst = true) : step s = .next (resetEdge s) := by
  simp [step, portEvent, hrst]

theorem step_of_idle {s : State} (hrst : s.port.rst = false) (hvalid : s.port.cmdValid = false)
    (hready : s.cmdReady = true) : step s = .next (advancePort s) := by
  simp [step, portEvent, commandCycle, hrst, hvalid, hready]

theorem step_of_not_cmdReady {s : State} (hrst : s.port.rst = false) (hready : s.cmdReady = false) :
    step s = .next (responseCycle s) := by
  simp [step, portEvent, hrst, hready]

/-- Settles O6: an idle step only moves on to the host's next lines. -/
theorem idleStepChangesNothing : Obligations.IdleStepChangesNothing := by
  intro s hrst hvalid hrsp
  have hready : s.cmdReady = true := by simp [State.cmdReady, hrsp]
  rw [step_of_idle hrst hvalid hready, advancePort_eq]

/-- Settles O4, event by event: the offered word is the one that could stop, and it reports a status. -/
theorem everyStepAnswersNextState : Obligations.EveryStepAnswersNextState := by
  intro s
  cases hrst : s.port.rst with
  | true => exact ⟨_, step_of_reset hrst⟩
  | false =>
    cases hready : s.cmdReady with
    | false => exact ⟨_, step_of_not_cmdReady hrst hready⟩
    | true =>
      cases hvalid : s.port.cmdValid with
      | false => exact ⟨_, step_of_idle hrst hvalid hready⟩
      | true =>
        obtain ⟨t, hrun, -⟩ := Safety.runWord_reports_expectedStatus s.port.cmd s
        exact ⟨advancePort t, by rw [step_of_offered hrst hvalid hready, hrun, mapNext_next]⟩

end Sys2Proof.Machine
end

section
/-! PROOFS. What the millisecond input reaches (60_exceptions.md R222, 40_window_detector.md R87): a command passes its level
through to the next state's port, and only a PUSH looks at it. -/

namespace Sys2Proof.Safety

open Sys2Proof.Machine

theorem requireConfigured_withNow {s effect effect' : State} {n : DWord} (heffect : effect' = withNow effect n) :
    requireConfigured (withNow s n) effect' = mapNext (withNow · n) (requireConfigured s effect) := by
  subst heffect
  cases hcfg : s.cfg.configured with
  | true =>
    rw [requireConfigured_of_configured s _ hcfg, requireConfigured_of_configured (withNow s n) _ hcfg, mapNext_next]
  | false =>
    rw [requireConfigured_of_unconfigured s _ hcfg, requireConfigured_of_unconfigured (withNow s n) _ hcfg, mapNext_next]
    rfl

theorem pushByte_withNow (b : Byte) (t n : DWord) (s : State) :
    pushByte b t (withNow s n) = withNow (pushByte b t s) n := by
  simp only [pushByte, apply_ite (withNow · n)]
  rfl

theorem exec_push_withNow (b : Byte) (s : State) (n : DWord) :
    exec (.push b) (withNow s n) = mapNext (withNow · n) (requireConfigured s (pushByte b n s)) :=
  requireConfigured_withNow (pushByte_withNow b n n s)

theorem exec_withNow_of_ne_push {i : Instr} (hi : ∀ b, i ≠ .push b) (s : State) (n : DWord) :
    exec i (withNow s n) = mapNext (withNow · n) (exec i s) := by
  cases i with
  | config p =>
    rw [exec_config, exec_config, mapNext_next]
    split <;> rfl
  | rdConfig => rfl
  | push b => exact absurd rfl (hi b)
  | bufRead k =>
    refine requireConfigured_withNow ?_
    rw [apply_ite (withNow · n)]
    rfl
  | _ => exact requireConfigured_withNow rfl

/-- Two pushes of one byte on one state, at two times: the window alone decides between the three results, and only the
decode of a valid frame stores the time. -/
theorem pushByte_reaches_only_updateTs (b : Byte) (n₁ n₂ : DWord) (s : State) :
    pushByte b n₁ s = pushByte b n₂ s ∨
    ∃ tel : Tel, ∀ n,
      pushByte b n s = { s with win := [], tel := { tel with updateTs := n }, rsp := some ⟨.ok, 1#32⟩ } := by
  by_cases hshape : FrameShaped (pushed s.win b)
  · by_cases hsum : ChecksumMatches (pushed s.win b)
    · exact .inr ⟨commitDecode (pushed s.win b) s.cfg.poleCount n₁, fun n => pushByte_of_validFrame ⟨hshape, hsum⟩⟩
    · exact .inl (by rw [pushByte_of_not_checksumMatches hshape hsum, pushByte_of_not_checksumMatches hshape hsum])
  · exact .inl (by rw [pushByte_of_not_frameShaped hshape, pushByte_of_not_frameShaped hshape])

/-- Two runs of a command at two times: one result with either time on its port, or two pushes of one byte. -/
theorem exec_withNow_cases {i : Instr} {s t₁ t₂ : State} {n₁ n₂ : DWord} (h₁ : exec i (withNow s n₁) = .next t₁)
    (h₂ : exec i (withNow s n₂) = .next t₂) :
    (∃ u, t₁ = withNow u n₁ ∧ t₂ = withNow u n₂) ∨
    (∃ b, i = .push b ∧ t₁ = withNow (pushByte b n₁ s) n₁ ∧ t₂ = withNow (pushByte b n₂ s) n₂) := by
  by_cases hpush : ∃ b, i = .push b
  · obtain ⟨b, rfl⟩ := hpush
    rw [exec_push_withNow] at h₁ h₂
    cases hcfg : s.cfg.configured with
    | true =>
      rw [requireConfigured_of_configured s _ hcfg] at h₁ h₂
      exact .inr ⟨b, rfl, (Host.Outcome.next.inj h₁).symm, (Host.Outcome.next.inj h₂).symm⟩
    | false =>
      rw [requireConfigured_of_unconfigured s _ hcfg] at h₁ h₂
      exact .inl ⟨_, (Host.Outcome.next.inj h₁).symm, (Host.Outcome.next.inj h₂).symm⟩
  · rw [exec_withNow_of_ne_push (not_exists.mp hpush)] at h₁ h₂
    obtain ⟨u, hu, rfl⟩ := mapNext_cases h₁
    rw [hu] at h₂
    exact .inl ⟨u, rfl, (Host.Outcome.next.inj h₂).symm⟩

/-- Settles O30: results that agree but for the port have nothing to compare, and two decodes of one frame differ in the time
they store. -/
theorem nowMsReachesOnlyTimestamp : Obligations.NowMsReachesOnlyTimestamp := by
  intro i s t₁ t₂ n₁ n₂ h₁ h₂
  rcases exec_withNow_cases h₁ h₂ with ⟨u, rfl, rfl⟩ | ⟨b, rfl, rfl, rfl⟩
  · exact ⟨rfl, rfl, rfl, rfl, rfl, fun hne => absurd rfl hne⟩
  · rcases pushByte_reaches_only_updateTs b n₁ n₂ s with hsame | ⟨tel, hdecoded⟩
    · rw [hsame]
      exact ⟨rfl, rfl, rfl, rfl, rfl, fun hne => absurd rfl hne⟩
    · rw [hdecoded n₁, hdecoded n₂]
      exact ⟨rfl, rfl, rfl, rfl, rfl, fun _ => ⟨⟨b, rfl⟩, rfl, rfl, rfl⟩⟩

end Sys2Proof.Safety
end

section
/-! PROOFS. The reset edge and the outstanding response, each as a whole next state (70_reset_and_hazards.md R240, R251,
60_exceptions.md R230). -/

namespace Sys2Proof.Machine

@[simp] theorem resetEdge_cmdReady (s : State) : (resetEdge s).cmdReady = true := by
  rw [State.cmdReady, resetEdge_rsp, Option.isNone_none]

@[simp] theorem resetEdge_port (s : State) : (resetEdge s).port = s.inbox.headD PortIn.quiet := by
  rw [resetEdge, advancePort_port]

@[simp] theorem resetEdge_inbox (s : State) : (resetEdge s).inbox = s.inbox.tail := by
  rw [resetEdge, advancePort_inbox]

theorem responseCycle_eq (s : State) :
    responseCycle s = { s with rsp := if s.port.rspReady = true then none else s.rsp,
                               port := s.inbox.headD PortIn.quiet, inbox := s.inbox.tail } := by
  rw [responseCycle, advancePort_eq]
  cases s.port.rspReady with
  | true => rfl
  | false => rfl

theorem cmdReady_eq_false_of_rsp {s : State} {r : Response} (hrsp : s.rsp = some r) : s.cmdReady = false := by
  rw [State.cmdReady, hrsp, Option.isNone_some]

/-- Settles O7: a block whose response is outstanding is not ready, so the step is the response cycle whatever is offered. -/
theorem outstandingResponseBlocksCommands : Obligations.OutstandingResponseBlocksCommands := by
  intro s r hrst hrsp
  rw [step_of_not_cmdReady hrst (cmdReady_eq_false_of_rsp hrsp), responseCycle_eq, hrsp]

/-- Settles O1: the step is the reset edge, whose elements are those of `State.reset` but for the host's lines. -/
theorem resetEdgeRestoresResetValues : Obligations.ResetEdgeRestoresResetValues := by
  refine ⟨fun s hrst => ⟨resetEdge s, step_of_reset hrst, ?_⟩, rfl, rfl, rfl, rfl⟩
  exact ⟨resetEdge_cfg s, resetEdge_win s, resetEdge_tel s, resetEdge_rsp s, resetEdge_cmdReady s, resetEdge_port s,
    resetEdge_inbox s⟩

end Sys2Proof.Machine
end
